-- ==== Sys2Proof/Word.lean ====
section
/-! DEFINITION. The value widths of the machine: bytes, words, nibbles and 12-bit addresses (00_scope.md R6, R7, R8, R22). -/

namespace Sys2Proof

/-- An 8-bit value: a general register, a timer, a byte of memory (R6, R7, R40). -/
abbrev Byte := BitVec 8

/-- A 16-bit value: PC, I, a stack entry, an instruction word (R8, R9, R13). -/
abbrev Word := BitVec 16

/-- A nibble: a register index x or y, a row count n, a key number (R22, R92). -/
abbrev Nibble := BitVec 4

/-- The 12-bit immediate nnn (R92). -/
abbrev Imm12 := BitVec 12

end Sys2Proof
end

