-- ==== Sys2Proof/Syntax.lean ====
section
/-! DEFINITION. The instructions: one constructor per row of spec/opcode_table.json, in the table's order, the decoder output
`Invalid` among them (30_encoding.md R94, R106). -/

namespace Sys2Proof

/-- The 35 operations and `Invalid` (R106). Operands are the fields of R92: registers x and y, row count n, immediates kk and nnn. -/
inductive Instr
  | cls                                -- 00E0  CLS
  | ret                                -- 00EE  RET
  | jp       (nnn : Imm12)             -- 1nnn  JP nnn
  | call     (nnn : Imm12)             -- 2nnn  CALL nnn
  | seImm    (x : Nibble) (kk : Byte)  -- 3xkk  SE Vx, kk
  | sneImm   (x : Nibble) (kk : Byte)  -- 4xkk  SNE Vx, kk
  | seReg    (x y : Nibble)            -- 5xy0  SE Vx, Vy
  | ldImm    (x : Nibble) (kk : Byte)  -- 6xkk  LD Vx, kk
  | addImm   (x : Nibble) (kk : Byte)  -- 7xkk  ADD Vx, kk
  | ldReg    (x y : Nibble)            -- 8xy0  LD Vx, Vy
  | orReg    (x y : Nibble)            -- 8xy1  OR Vx, Vy
  | andReg   (x y : Nibble)            -- 8xy2  AND Vx, Vy
  | xorReg   (x y : Nibble)            -- 8xy3  XOR Vx, Vy
  | addReg   (x y : Nibble)            -- 8xy4  ADD Vx, Vy
  | sub      (x y : Nibble)            -- 8xy5  SUB Vx, Vy
  | shr      (x y : Nibble)            -- 8xy6  SHR Vx {, Vy}
  | subn     (x y : Nibble)            -- 8xy7  SUBN Vx, Vy
  | shl      (x y : Nibble)            -- 8xyE  SHL Vx {, Vy}
  | sneReg   (x y : Nibble)            -- 9xy0  SNE Vx, Vy
  | ldI      (nnn : Imm12)             -- Annn  LD I, nnn
  | jpV0     (nnn : Imm12)             -- Bnnn  JP V0, nnn
  | rnd      (x : Nibble) (kk : Byte)  -- Cxkk  RND Vx, kk
  | drw      (x y n : Nibble)          -- Dxyn  DRW Vx, Vy, n
  | skp      (x : Nibble)              -- Ex9E  SKP Vx
  | sknp     (x : Nibble)              -- ExA1  SKNP Vx
  | ldVxDt   (x : Nibble)              -- Fx07  LD Vx, DT
  | ldVxK    (x : Nibble)              -- Fx0A  LD Vx, K
  | ldDtVx   (x : Nibble)              -- Fx15  LD DT, Vx
  | ldStVx   (x : Nibble)              -- Fx18  LD ST, Vx
  | addI     (x : Nibble)              -- Fx1E  ADD I, Vx
  | ldF      (x : Nibble)              -- Fx29  LD F, Vx
  | ldB      (x : Nibble)              -- Fx33  LD B, Vx
  | ldMemVx  (x : Nibble)              -- Fx55  LD [I], Vx
  | ldVxMem  (x : Nibble)              -- Fx65  LD Vx, [I]
  | sys      (nnn : Imm12)             -- 0nnn  SYS nnn, nnn neither 0E0 nor 0EE
  | invalid  (word : Word)             -- any other word, carried raw (R103)
deriving DecidableEq, Repr

end Sys2Proof
end

