-- ==== Sys2Proof/WellFormed.lean ====
section
/-! DEFINITION. Which terms of Instr stand for a word: the two restrictions the encodings make beyond their fields' widths
(30_encoding.md R96: nnn of SYS; R98-R102: the words that are `Invalid`). -/

namespace Sys2Proof

/-- The low bytes family E defines (R101). -/
def familyEBytes : List Byte := [0x9E, 0xA1]

/-- The low bytes family F defines (R102). -/
def familyFBytes : List Byte := [0x07, 0x0A, 0x15, 0x18, 0x1E, 0x29, 0x33, 0x55, 0x65]

/-- The low nibbles family 8 defines (R99). -/
def family8Nibbles : List Nibble := [0x0, 0x1, 0x2, 0x3, 0x4, 0x5, 0x6, 0x7, 0xE]

/-- The words that match no operation: 5xyN and 9xyN with N ≠ 0, 8xyN with an undefined N, and undefined low bytes of
families E and F (R98-R102). -/
def matchesNoOperation (w : Word) : Bool :=
  let op : Nibble := w.extractLsb' 12 4
  let n : Nibble := w.extractLsb' 0 4
  let kk : Byte := w.extractLsb' 0 8
  (op == 0x5#4 && n != 0#4) ||
  (op == 0x8#4 && !family8Nibbles.contains n) ||
  (op == 0x9#4 && n != 0#4) ||
  (op == 0xE#4 && !familyEBytes.contains kk) ||
  (op == 0xF#4 && !familyFBytes.contains kk)

/-- An instruction that some word encodes. Every operand of every operation has its field's width, so the only checks are SYS's
two excluded addresses (R96) and that `invalid` carries a word of the invalid space (R103). -/
def Instr.wellFormed : Instr → Bool
  | .sys nnn => nnn != 0x0E0#12 && nnn != 0x0EE#12
  | .invalid w => matchesNoOperation w
  | .cls | .ret | .jp _ | .call _ | .seImm _ _ | .sneImm _ _ | .seReg _ _ | .ldImm _ _ | .addImm _ _
  | .ldReg _ _ | .orReg _ _ | .andReg _ _ | .xorReg _ _ | .addReg _ _ | .sub _ _ | .shr _ _ | .subn _ _ | .shl _ _
  | .sneReg _ _ | .ldI _ | .jpV0 _ | .rnd _ _ | .drw _ _ _ | .skp _ | .sknp _ | .ldVxDt _ | .ldVxK _ | .ldDtVx _
  | .ldStVx _ | .addI _ | .ldF _ | .ldB _ | .ldMemVx _ | .ldVxMem _ => true

end Sys2Proof
end

