-- ==== Sys2Proof/Decode.lean ====
section
/-! DEFINITION. The decoder, total on 16-bit words and on byte lists, and the encoder, both written from the encoding tables
(30_encoding.md R90-R106). -/

namespace Sys2Proof

/-- Nibble 0, the family (R92). -/
def opField (w : Word) : Nibble := w.extractLsb' 12 4
/-- Nibble 1, a register index (R92). -/
def xField (w : Word) : Nibble := w.extractLsb' 8 4
/-- Nibble 2, a register index (R92). -/
def yField (w : Word) : Nibble := w.extractLsb' 4 4
/-- Nibble 3, a 4-bit immediate or count (R92). -/
def nField (w : Word) : Nibble := w.extractLsb' 0 4
/-- The low byte, an 8-bit immediate (R92). -/
def kkField (w : Word) : Byte := w.extractLsb' 0 8
/-- The low 12 bits, an address or immediate (R92). -/
def nnnField (w : Word) : Imm12 := w.extractLsb' 0 12

/-- Families 0: CLS, RET and SYS (R96). -/
def decodeFamily0 (w : Word) : Instr :=
  if w = 0x00E0#16 then .cls else if w = 0x00EE#16 then .ret else .sys (nnnField w)

/-- Family 8: the register-register operations, by the low nibble (R99). -/
def decodeFamily8 (w : Word) : Instr :=
  match nField w with
  | 0x0#4 => .ldReg (xField w) (yField w)
  | 0x1#4 => .orReg (xField w) (yField w)
  | 0x2#4 => .andReg (xField w) (yField w)
  | 0x3#4 => .xorReg (xField w) (yField w)
  | 0x4#4 => .addReg (xField w) (yField w)
  | 0x5#4 => .sub (xField w) (yField w)
  | 0x6#4 => .shr (xField w) (yField w)
  | 0x7#4 => .subn (xField w) (yField w)
  | 0xE#4 => .shl (xField w) (yField w)
  | _ => .invalid w

/-- Family E: the key skips, by the low byte (R101). -/
def decodeFamilyE (w : Word) : Instr :=
  match kkField w with
  | 0x9E#8 => .skp (xField w)
  | 0xA1#8 => .sknp (xField w)
  | _ => .invalid w

/-- Family F: timers, the key wait, I and memory transfers, by the low byte (R102). -/
def decodeFamilyF (w : Word) : Instr :=
  match kkField w with
  | 0x07#8 => .ldVxDt (xField w)
  | 0x0A#8 => .ldVxK (xField w)
  | 0x15#8 => .ldDtVx (xField w)
  | 0x18#8 => .ldStVx (xField w)
  | 0x1E#8 => .addI (xField w)
  | 0x29#8 => .ldF (xField w)
  | 0x33#8 => .ldB (xField w)
  | 0x55#8 => .ldMemVx (xField w)
  | 0x65#8 => .ldVxMem (xField w)
  | _ => .invalid w

/-- The decoder: a total function from words to the 36 variants, dispatched on nibble 0 (R94, R95). -/
def decode (w : Word) : Instr :=
  match opField w with
  | 0x0#4 => decodeFamily0 w
  | 0x1#4 => .jp (nnnField w)
  | 0x2#4 => .call (nnnField w)
  | 0x3#4 => .seImm (xField w) (kkField w)
  | 0x4#4 => .sneImm (xField w) (kkField w)
  | 0x5#4 => if nField w = 0#4 then .seReg (xField w) (yField w) else .invalid w
  | 0x6#4 => .ldImm (xField w) (kkField w)
  | 0x7#4 => .addImm (xField w) (kkField w)
  | 0x8#4 => decodeFamily8 w
  | 0x9#4 => if nField w = 0#4 then .sneReg (xField w) (yField w) else .invalid w
  | 0xA#4 => .ldI (nnnField w)
  | 0xB#4 => .jpV0 (nnnField w)
  | 0xC#4 => .rnd (xField w) (kkField w)
  | 0xD#4 => .drw (xField w) (yField w) (nField w)
  | 0xE#4 => decodeFamilyE w
  | _ => decodeFamilyF w -- 0xF, the one nibble left

/-- Why a byte list holds no instruction. -/
inductive DecodeReject
  | truncated -- fewer than the two bytes every instruction takes (R90)
deriving DecidableEq, Repr

/-- A word from its two bytes, the first the most significant (20_memory.md R66). -/
def wordOfBytes (hi lo : Byte) : Word := hi ++ lo

/-- Decode the first instruction of a byte list and give the rest back: every instruction is exactly two bytes, big-endian (R90). -/
def decodeBytes : List Byte → Except DecodeReject (Instr × List Byte)
  | hi :: lo :: rest => .ok (decode (wordOfBytes hi lo), rest)
  | [_] => .error .truncated
  | [] => .error .truncated

/-- Format A: `op n n n` (R91). -/
def wordA (op : Nibble) (nnn : Imm12) : Word := op ++ nnn
/-- Format XK: `op x k k` (R91). -/
def wordXK (op x : Nibble) (kk : Byte) : Word := op ++ x ++ kk
/-- Formats XY and XYN: `op x y f` and `D x y n` (R91). -/
def wordXYN (op x y n : Nibble) : Word := op ++ x ++ y ++ n

/-- The word of an instruction, from the pattern column of the opcode map (R106). -/
def encode : Instr → Word
  | .cls         => 0x00E0#16
  | .ret         => 0x00EE#16
  | .jp nnn      => wordA 0x1 nnn
  | .call nnn    => wordA 0x2 nnn
  | .seImm x kk  => wordXK 0x3 x kk
  | .sneImm x kk => wordXK 0x4 x kk
  | .seReg x y   => wordXYN 0x5 x y 0x0
  | .ldImm x kk  => wordXK 0x6 x kk
  | .addImm x kk => wordXK 0x7 x kk
  | .ldReg x y   => wordXYN 0x8 x y 0x0
  | .orReg x y   => wordXYN 0x8 x y 0x1
  | .andReg x y  => wordXYN 0x8 x y 0x2
  | .xorReg x y  => wordXYN 0x8 x y 0x3
  | .addReg x y  => wordXYN 0x8 x y 0x4
  | .sub x y     => wordXYN 0x8 x y 0x5
  | .shr x y     => wordXYN 0x8 x y 0x6
  | .subn x y    => wordXYN 0x8 x y 0x7
  | .shl x y     => wordXYN 0x8 x y 0xE
  | .sneReg x y  => wordXYN 0x9 x y 0x0
  | .ldI nnn     => wordA 0xA nnn
  | .jpV0 nnn    => wordA 0xB nnn
  | .rnd x kk    => wordXK 0xC x kk
  | .drw x y n   => wordXYN 0xD x y n
  | .skp x       => wordXK 0xE x 0x9E
  | .sknp x      => wordXK 0xE x 0xA1
  | .ldVxDt x    => wordXK 0xF x 0x07
  | .ldVxK x     => wordXK 0xF x 0x0A
  | .ldDtVx x    => wordXK 0xF x 0x15
  | .ldStVx x    => wordXK 0xF x 0x18
  | .addI x      => wordXK 0xF x 0x1E
  | .ldF x       => wordXK 0xF x 0x29
  | .ldB x       => wordXK 0xF x 0x33
  | .ldMemVx x   => wordXK 0xF x 0x55
  | .ldVxMem x   => wordXK 0xF x 0x65
  | .sys nnn     => wordA 0x0 nnn
  | .invalid w   => w

/-- The high byte of a word: the byte at the lower address (R66). -/
def highByte (w : Word) : Byte := w.extractLsb' 8 8
/-- The low byte of a word: the byte at the higher address (R66). -/
def lowByte (w : Word) : Byte := w.extractLsb' 0 8

/-- The instruction the decoder reads from a row of the opcode table whose bits are `w`: the word's two bytes are laid out as
memory holds them and given to the decoder. No row is wider than 16 bits (R90). -/
def decodeTableWord (nbits w : Nat) : Option Instr :=
  if nbits ≤ 16 then
    let word : Word := BitVec.ofNat 16 (w % 2 ^ nbits)
    match decodeBytes [highByte word, lowByte word] with
    | .ok (i, _) => some i
    | .error _ => none
  else none

end Sys2Proof
end

