-- ==== Sys2Proof/Config.lean ====
section
/-! DEFINITION. What the spec leaves to the launch: the five named parameters with their defaults (00_scope.md R14-R18), the
default font (R19, 93_implementation_defined.md Part 3), and the one free value, the random byte (41_alu.md R153). -/

namespace Sys2Proof

/-- `SHIFT_SOURCE` (R15): which register's value SHR and SHL shift. -/
inductive ShiftSource
  | vx
  | vy
deriving DecidableEq, Repr

/-- `SYS_MODE` (R16): what SYS nnn does at execute. -/
inductive SysMode
  | fault
  | nop
deriving DecidableEq, Repr

/-- `FETCH_CHECK` (R17): what a fetch checks of the PC. -/
inductive FetchCheck
  | strict
  | boundsOnly
deriving DecidableEq, Repr

/-- `KEY_INDEX_MODE` (R18): how a key skip turns Vx into a key number. -/
inductive KeyIndexMode
  | lowNibble
  | fault
deriving DecidableEq, Repr

/-- The five named parameters of the hardware (R14-R18). A machine carries its own values and no step changes them (notes/assumptions/1.md). -/
structure Config where
  wrapSprites  : Bool
  shiftSource  : ShiftSource
  sysMode      : SysMode
  fetchCheck   : FetchCheck
  keyIndexMode : KeyIndexMode
deriving DecidableEq, Repr

/-- The spec's defaults of the five parameters (R14-R18). -/
def Config.default : Config where
  wrapSprites  := false
  shiftSource  := .vx
  sysMode      := .fault
  fetchCheck   := .strict
  keyIndexMode := .lowNibble

/-- The spec's default `FONT_DATA`, 16 glyphs of 5 bytes (93_implementation_defined.md Part 3; PRESUMED, notes/assumptions/6.md). -/
def Config.defaultFont : List Byte :=
  [0xF0, 0x90, 0x90, 0x90, 0xF0] ++ -- 0
  [0x20, 0x60, 0x20, 0x20, 0x70] ++ -- 1
  [0xF0, 0x10, 0xF0, 0x80, 0xF0] ++ -- 2
  [0xF0, 0x10, 0xF0, 0x10, 0xF0] ++ -- 3
  [0x90, 0x90, 0xF0, 0x10, 0x10] ++ -- 4
  [0xF0, 0x80, 0xF0, 0x10, 0xF0] ++ -- 5
  [0xF0, 0x80, 0xF0, 0x90, 0xF0] ++ -- 6
  [0xF0, 0x10, 0x20, 0x40, 0x40] ++ -- 7
  [0xF0, 0x90, 0xF0, 0x90, 0xF0] ++ -- 8
  [0xF0, 0x90, 0xF0, 0x10, 0xF0] ++ -- 9
  [0xF0, 0x90, 0xF0, 0x90, 0x90] ++ -- A
  [0xE0, 0x90, 0xE0, 0x90, 0xE0] ++ -- B
  [0xF0, 0x80, 0x80, 0x80, 0xF0] ++ -- C
  [0xE0, 0x90, 0x90, 0x90, 0xE0] ++ -- D
  [0xF0, 0x80, 0xF0, 0x80, 0xF0] ++ -- E
  [0xF0, 0x80, 0xF0, 0x80, 0x80]    -- F

/-- The byte of the k-th random draw that the state does not already hold: a free value, any of 0..255, of which nothing is
known (R153, decision D26; notes/assumptions/4.md). -/
opaque Config.rand8 : Nat → Byte

end Sys2Proof
end

