-- ==== Sys2Proof/Machine/State.lean ====
section
/-! DEFINITION. The machine's state as plain data, every piece the spec gives it (10_state.md R30-R49), the agents' pending
inputs, and the state after reset. -/

namespace Sys2Proof.Machine

/-- Memory as address-byte pairs; its canonical form is `Memory.wf` and what an unlisted address reads as is
`Memory.unlisted`, both in Machine/Ops.lean (20_memory.md R60). -/
abbrev Memory := List Host.Cell

/-- The framebuffer, row-major: 32 rows of 64 one-bit pixels (R42). -/
abbrev Display := Vector (Vector Bool 64) 32

/-- The five fault causes (60_exceptions.md R230). -/
inductive FaultCause
  | decodeError
  | addressFault
  | stackOverflow
  | stackUnderflow
  | unimplementedOpcode
deriving DecidableEq, Repr

/-- The fault latch (R45). `cause = none` is code 0, no fault; the 3-bit code is `FaultCause.code` in Machine/Ops.lean. -/
structure FaultLatch where
  cause     : Option FaultCause
  pc        : Word
  word      : Word
  wordValid : Bool
deriving DecidableEq, Repr

/-- One step of one agent at a cycle boundary (20_memory.md R74). The display reader changes nothing and needs no event. -/
inductive HostEvent
  | cycle                              -- the host's `step` request: one cycle of the core (R110, R250)
  | tick                               -- one 60 Hz timer tick (60_exceptions.md R245)
  | key (k : Nibble) (pressed : Bool)  -- the key source writes one entry (20_memory.md R75)
  | reset (font rom : List Byte)       -- reset and load (70_reset_and_hazards.md R260)
deriving DecidableEq, Repr

/-- The machine. The fields down to `halted` are the spec's own (R30); `cfg` holds the launch parameters (R14-R18), and
`schedule`, `randIn` and `draws` are the model's own record of the environment (notes/assumptions/1.md, 2.md, 4.md). -/
structure State where
  mem      : Memory
  v        : Vector Byte 16    -- V0..VF (R31)
  i        : Word              -- the index register (R35)
  pc       : Word              -- the program counter (R38)
  stack    : Vector Word 16    -- the call stack (R36)
  sp       : Fin 17            -- how many stack entries are occupied, 0..16 (R36, R37)
  dt       : Byte              -- the delay timer (R40)
  st       : Byte              -- the sound timer (R41)
  disp     : Display           -- the framebuffer (R42)
  key      : Vector Bool 16    -- the keypad input register (R43)
  fault    : FaultLatch        -- the fault latch (R45)
  halted   : Bool              -- set by a fault, cleared by reset (R46)
  cfg      : Config            -- the launch parameters, never changed by a step (R14-R18)
  schedule : List HostEvent    -- the agents' next steps, first the next; when empty the host requests a cycle (R74)
  randIn   : List Byte         -- bytes standing at the rand8 port, first the next (R250)
  draws    : Nat               -- how many free random bytes have been drawn (R153)
deriving DecidableEq, Repr

/-- Why a step stops with a fault: never. A fault of this hardware is not a stop of the model: the core latches it and halts, which
is a next state (60_exceptions.md R237), and a halted core ignores a request for a cycle (R238, R250). -/
inductive Fault
deriving DecidableEq, Repr

/-- Why a step is refused. -/
inductive Refusal
  /-- Raised by an arm of `exec` whose instruction has no meaning yet; no arm of this model does. Safe. -/
  | notModelled (mnemonic : String)
  /-- Raised by a reset event whose font is not 80 bytes or whose ROM is longer than 3584: a launch the spec says it does not
  describe (20_memory.md R83, 70_reset_and_hazards.md R265). Safe. -/
  | launchNotDescribed
deriving DecidableEq, Repr

/-- No fault latched (R45, R49). -/
def FaultLatch.clear : FaultLatch where
  cause := none
  pc := 0
  word := 0
  wordValid := false

/-- Every pixel 0 (R42, R49). -/
def Display.blank : Display := Vector.replicate 32 (Vector.replicate 64 false)

/-- The machine right after reset with the default font and an empty ROM (R49, R260): memory reads as the reset contents
(`Memory.unlisted`), so it lists nothing. The parameters are the spec's defaults and the environment has nothing pending. -/
def State.reset : State where
  mem := []
  v := Vector.replicate 16 0
  i := 0
  pc := 0x200
  stack := Vector.replicate 16 0
  sp := 0
  dt := 0
  st := 0
  disp := Display.blank
  key := Vector.replicate 16 false
  fault := FaultLatch.clear
  halted := false
  cfg := Config.default
  schedule := []
  randIn := []
  draws := 0

end Sys2Proof.Machine
end

