-- ==== Sys2Proof/Machine/Ops.lean ====
section
/-! DEFINITION. The named operations every meaning is written over: memory, registers, the stack, the display, the program-counter
policy, the random port and the entry of a fault. -/

namespace Sys2Proof.Machine

/-! ## Memory (20_memory.md) -/

/-- What an address that is not listed reads as: the reset contents, that is the font at 0x050-0x09F and zero elsewhere
(R49, R61; the font bytes are the spec's default, notes/assumptions/6.md). -/
def Memory.unlisted (a : Nat) : Byte :=
  if 0x050 ≤ a ∧ a < 0x0A0 then Config.defaultFont.getD (a - 0x050) 0 else 0

/-- Every key of the list is above `lo`, strictly rising, inside the 4096 bytes of memory, and no entry equals what the
address reads as when unlisted. -/
def Memory.wfFrom : Nat → Memory → Bool
  | _, [] => true
  | lo, (a, b) :: rest => decide (lo ≤ a) && decide (a ≤ 0xFFF) && b != Memory.unlisted a && Memory.wfFrom (a + 1) rest

/-- The canonical form of memory: equal memories are equal lists. -/
def Memory.wf (m : Memory) : Bool := Memory.wfFrom 0 m

/-- `MemRead(a, 1)` (R65). -/
def Memory.read : Memory → Nat → Byte
  | [], a => Memory.unlisted a
  | (k, b) :: rest, a => if k = a then b else Memory.read rest a

/-- Put an entry at its place in the rising order of addresses. -/
def Memory.insert : Memory → Nat → Byte → Memory
  | [], a, b => [(a, b)]
  | (k, c) :: rest, a, b => if a < k then (a, b) :: (k, c) :: rest else (k, c) :: Memory.insert rest a b

/-- Take every entry of an address away, so that it reads as unlisted. -/
def Memory.erase (m : Memory) (a : Nat) : Memory := m.filter fun c => c.1 != a

/-- `MemWrite(a, 1, v)` (R65), keeping the canonical form: a byte equal to what the unlisted address reads as is not listed. -/
def Memory.write (m : Memory) (a : Nat) (b : Byte) : Memory :=
  if b = Memory.unlisted a then m.erase a else (m.erase a).insert a b

/-- Write consecutive bytes, the first at `a` (R67). -/
def Memory.writeBytes : Memory → Nat → List Byte → Memory
  | m, _, [] => m
  | m, a, b :: bs => Memory.writeBytes (Memory.write m a b) (a + 1) bs

/-- Read `n` consecutive bytes, the first at `a` (R67). -/
def Memory.readBytes (m : Memory) (a n : Nat) : List Byte :=
  (List.range n).map fun k => m.read (a + k)

/-- `CheckRange(base, len)` for `len ≥ 1` (R64): addresses are naturals and never wrap. -/
def rangeOk (base len : Nat) : Bool := decide (base + len - 1 ≤ 0xFFF)

/-! ## Registers (10_state.md) -/

/-- `V[x]` (R31). -/
def State.readV (s : State) (x : Nibble) : Byte := s.v[x.toNat]'x.isLt

/-- `V[x] <- b` (R31). -/
def State.setV (s : State) (x : Nibble) (b : Byte) : State := { s with v := s.v.set x.toNat b x.isLt }

/-- `V[k] <- b_k` for k = 0, 1, … over the bytes given (42_index_memory.md R175). -/
def State.setVs : State → Nat → List Byte → State
  | s, _, [] => s
  | s, k, b :: bs => (s.setV (BitVec.ofNat 4 k) b).setVs (k + 1) bs

/-- V0..Vx in order (42_index_memory.md R174). -/
def State.readVs (s : State) (x : Nibble) : List Byte :=
  (List.range (x.toNat + 1)).map fun k => s.readV (BitVec.ofNat 4 k)

/-- The index of VF, the flag register (R33). -/
def flagReg : Nibble := 0xF

/-- `I <- w` (R35). -/
def State.setI (s : State) (w : Word) : State := { s with i := w }

/-- `pc <- w` (R38). -/
def State.setPc (s : State) (w : Word) : State := { s with pc := w }

/-- `DT <- b` (R40). -/
def State.setDt (s : State) (b : Byte) : State := { s with dt := b }

/-- `ST <- b` (R41). -/
def State.setSt (s : State) (b : Byte) : State := { s with st := b }

/-- Replace the framebuffer (R42). -/
def State.setDisp (s : State) (d : Display) : State := { s with disp := d }

/-- Replace memory (R44). -/
def State.setMem (s : State) (m : Memory) : State := { s with mem := m }

/-- `key[k]` as sampled now (R43). -/
def State.readKey (s : State) (k : Nibble) : Bool := s.key[k.toNat]'k.isLt

/-- The key source's write of one entry (20_memory.md R75). -/
def State.setKey (s : State) (k : Nibble) (pressed : Bool) : State :=
  { s with key := s.key.set k.toNat pressed k.isLt }

/-- Replace the agents' pending steps. -/
def State.setSchedule (s : State) (es : List HostEvent) : State := { s with schedule := es }

/-! ## The display (10_state.md R42) -/

/-- `disp[px][py]`. -/
def Display.get (d : Display) (px : Fin 64) (py : Fin 32) : Bool := (d[py.val]'py.isLt)[px.val]'px.isLt

/-- `disp[px][py] <- b`. -/
def Display.put (d : Display) (px : Fin 64) (py : Fin 32) (b : Bool) : Display :=
  d.set py.val ((d[py.val]'py.isLt).set px.val b px.isLt) py.isLt

/-! ## The program-counter policy (40_control_flow.md R114) -/

/-- `pc <- PC + 2`. -/
def State.advance (s : State) : State := s.setPc (s.pc + 2)

/-- `pc <- PC + 4` if the condition holds, else `PC + 2`. -/
def State.skipIf (s : State) (c : Bool) : State := s.setPc (if c then s.pc + 4 else s.pc + 2)

/-! ## The fault latch (60_exceptions.md) -/

/-- The 3-bit code of a cause; 0 is no fault (R230). -/
def FaultCause.code : FaultCause → BitVec 3
  | .decodeError => 1
  | .addressFault => 2
  | .stackOverflow => 3
  | .stackUnderflow => 4
  | .unimplementedOpcode => 5

/-- `fault.cause` as the 3-bit port shows it (R45, R250). -/
def FaultLatch.code (f : FaultLatch) : BitVec 3 :=
  match f.cause with
  | none => 0
  | some c => c.code

/-- `TakeFault(F, PC, word)` (R237): the one entry of every fault. The latch takes the cause, the fetch address and the word if
one was fetched; the core halts; nothing else changes, the PC included. Only a reset returns from it (R239). -/
def State.takeFault (s : State) (c : FaultCause) (word : Option Word) : State :=
  { s with
    fault := { cause := some c, pc := s.pc, word := word.getD 0, wordValid := word.isSome }
    halted := true }

/-- `raise F(pc = PC, word = w)` in Execute (00_scope.md R25). -/
def raise (c : FaultCause) (w : Word) (s : State) : Host.Outcome State Fault Refusal :=
  .next (s.takeFault c (some w))

/-! ## The call stack (10_state.md R36) -/

/-- `stack[j]` (00_scope.md R25). -/
def State.stackEntry (s : State) (j : Fin 16) : Word := s.stack[j.val]'j.isLt

/-- Replace the stack's entries and SP. -/
def State.setStack (s : State) (entries : Vector Word 16) (sp : Fin 17) : State := { s with stack := entries, sp := sp }

/-- `Push(v)`; none when the stack is full. -/
def State.push (s : State) (w : Word) : Option State :=
  if h : s.sp.val < 16 then some (s.setStack (s.stack.set s.sp.val w h) ⟨s.sp.val + 1, by omega⟩) else none

/-- `Pop()`; none when the stack is empty. The entry read is not cleared. -/
def State.pop (s : State) : Option (Word × State) :=
  if h : 0 < s.sp.val then
    some (s.stackEntry ⟨s.sp.val - 1, by omega⟩, s.setStack s.stack ⟨s.sp.val - 1, by omega⟩)
  else none

/-! ## The random port (41_alu.md R153) -/

/-- The byte the next `rand8()` yields: the one standing at the port, else a free value. -/
def State.nextRand (s : State) : Byte :=
  match s.randIn with
  | [] => Config.rand8 s.draws
  | b :: _ => b

/-- One draw consumed. -/
def State.dropRand (s : State) : State :=
  match s.randIn with
  | [] => { s with draws := s.draws + 1 }
  | _ :: bs => { s with randIn := bs }

end Sys2Proof.Machine
end

