-- ==== Sys2Proof/Machine/Agents.lean ====
section
/-! DEFINITION. What the agents beside the core do between cycles: the tick source, the key source, and the reset and loader
(20_memory.md R74; 60_exceptions.md R245; 70_reset_and_hazards.md R260). -/

namespace Sys2Proof.Machine

/-- One timer counted down, floored at 0 (R244, R245). -/
def countDown (b : Byte) : Byte := if b.toNat > 0 then b - 1 else b

/-- `Tick()` (R245): both timers, whether or not the core is halted or stalled. -/
def State.tick (s : State) : State := (s.setDt (countDown s.dt)).setSt (countDown s.st)

/-- Memory after reset: zero, the font at 0x050, then the ROM at 0x200 (R260, R83, R84). -/
def loadedMemory (font rom : List Byte) : Memory := (Memory.writeBytes [] 0x050 font).writeBytes 0x200 rom

/-- `Reset(FONT_DATA, ROM)` (R260): every piece of the spec's state takes its reset value. The launch parameters are the machine's
own, and the environment's pending inputs are not the core's, so they stay. -/
def State.resetWith (s : State) (font rom : List Byte) : State :=
  { State.reset with
    mem := loadedMemory font rom
    cfg := s.cfg
    schedule := s.schedule
    randIn := s.randIn
    draws := s.draws }

/-- A launch the spec describes: an 80-byte font and a ROM of at most 3584 bytes (R20, R83, R265). -/
def launchOk (font rom : List Byte) : Bool := decide (font.length = 80 ∧ rom.length ≤ 3584)

/-- The `reset` port (60_exceptions.md R250); a launch the spec does not describe is refused (R83, R265). -/
def hostReset (font rom : List Byte) (s : State) : Host.Outcome State Fault Refusal :=
  if launchOk font rom then .next (s.resetWith font rom) else .refused .launchNotDescribed

end Sys2Proof.Machine
end

