-- ==== Sys2Proof/Machine/Flags.lean ====
section
/-! DEFINITION. The flags the ALU writes to VF (10_state.md R33) and the order of the two writes (R34). DRW's collision flag is the
blitter's, in Machine/Display.lean. -/

namespace Sys2Proof.Machine

/-- A flag as the byte VF takes: 1 or 0 (R33). -/
def flagByte (b : Bool) : Byte := if b then 1 else 0

/-- The carry of ADD Vx, Vy: the exact sum exceeds 255 (41_alu.md R148). -/
def carryOut (a b : Byte) : Bool := decide (a.toNat + b.toNat > 255)

/-- The no-borrow flag of a − b: a ≥ b (41_alu.md R149, R151). -/
def noBorrow (a b : Byte) : Bool := decide (a.toNat ≥ b.toNat)

/-- The bit a right shift by one drops, bit 0 (41_alu.md R150). -/
def shiftedOutRight (a : Byte) : Bool := a.getLsbD 0

/-- The bit a left shift by one drops, bit 7 (41_alu.md R152). -/
def shiftedOutLeft (a : Byte) : Bool := a.getLsbD 7

/-- The result to Vx first, the flag to VF last, so that with x = 15 the flag survives (R34), then `pc <- PC + 2`. -/
def State.writeResultAndFlag (s : State) (x : Nibble) (result : Byte) (flag : Bool) : State :=
  ((s.setV x result).setV flagReg (flagByte flag)).advance

/-- A result to Vx with no flag, then `pc <- PC + 2`. -/
def State.writeResult (s : State) (x : Nibble) (result : Byte) : State := (s.setV x result).advance

end Sys2Proof.Machine
end

