-- ==== Sys2Proof/Machine/Operands.lean ====
section
/-! DEFINITION. The operand forms that are more than a register or an immediate: the shift source, the key number, the glyph
address, and the placing of a sprite pixel. -/

namespace Sys2Proof.Machine

/-- The value SHR and SHL shift: V[x], or V[y] when `SHIFT_SOURCE = Vy` (41_alu.md R150, R152). -/
def shiftOperand (s : State) (x y : Nibble) : Byte :=
  match s.cfg.shiftSource with
  | .vx => s.readV x
  | .vy => s.readV y

/-- `KeyIndex(v)` (44_timers_keys.md R210): the low nibble, or none (an AddressFault) when `KEY_INDEX_MODE = fault` and v > 15. -/
def keyIndex (mode : KeyIndexMode) (v : Byte) : Option Nibble :=
  match mode with
  | .lowNibble => some (v.extractLsb' 0 4)
  | .fault => if v.toNat > 15 then none else some (v.extractLsb' 0 4)

/-- The lowest pressed key, if any (44_timers_keys.md R214). -/
def lowestPressed (s : State) : Option Nibble :=
  ((List.range 16).map (BitVec.ofNat 4)).find? s.readKey

/-- The address of the glyph the low nibble of v names, 0x050 + 5·d (42_index_memory.md R172). -/
def glyphAddress (v : Byte) : Word := BitVec.ofNat 16 (0x050 + 5 * (v.toNat % 16))

/-- The three decimal digits of v, the most significant first (42_index_memory.md R173). -/
def bcdDigits (v : Byte) : List Byte :=
  [BitVec.ofNat 8 (v.toNat / 100), BitVec.ofNat 8 (v.toNat / 10 % 10), BitVec.ofNat 8 (v.toNat % 10)]

/-- `Place(cx, cy)` (43_display.md R195, R196): where a sprite pixel lands; none when it is clipped. -/
def place (wrap : Bool) (cx cy : Nat) : Option (Fin 64 × Fin 32) :=
  if wrap then some (⟨cx % 64, Nat.mod_lt _ (by decide)⟩, ⟨cy % 32, Nat.mod_lt _ (by decide)⟩)
  else if h : cx < 64 ∧ cy < 32 then some (⟨cx, h.1⟩, ⟨cy, h.2⟩)
  else none

/-- The sprite's column origin, Vx mod 64 (43_display.md R194). -/
def originX (v : Byte) : Nat := v.toNat % 64

/-- The sprite's row origin, Vy mod 32 (43_display.md R194, 90_conflicts.md C3). -/
def originY (v : Byte) : Nat := v.toNat % 32

end Sys2Proof.Machine
end

