-- ==== Sys2Proof/Machine/Alu.lean ====
section
/-! DEFINITION. The meanings of the register-immediate and register-register instructions and of RND (41_alu.md). Operands are read
before any write (R141); results wrap mod 256 (R140). -/

namespace Sys2Proof.Machine

/-- LD Vx, kk (R142). -/
def execLdImm (x : Nibble) (kk : Byte) (s : State) : Host.Outcome State Fault Refusal := .next (s.writeResult x kk)

/-- ADD Vx, kk (R143): no flag. -/
def execAddImm (x : Nibble) (kk : Byte) (s : State) : Host.Outcome State Fault Refusal :=
  .next (s.writeResult x (s.readV x + kk))

/-- LD Vx, Vy (R144). -/
def execLdReg (x y : Nibble) (s : State) : Host.Outcome State Fault Refusal := .next (s.writeResult x (s.readV y))

/-- OR Vx, Vy (R145). -/
def execOrReg (x y : Nibble) (s : State) : Host.Outcome State Fault Refusal :=
  .next (s.writeResult x (s.readV x ||| s.readV y))

/-- AND Vx, Vy (R146). -/
def execAndReg (x y : Nibble) (s : State) : Host.Outcome State Fault Refusal :=
  .next (s.writeResult x (s.readV x &&& s.readV y))

/-- XOR Vx, Vy (R147). -/
def execXorReg (x y : Nibble) (s : State) : Host.Outcome State Fault Refusal :=
  .next (s.writeResult x (s.readV x ^^^ s.readV y))

/-- ADD Vx, Vy (R148). -/
def execAddReg (x y : Nibble) (s : State) : Host.Outcome State Fault Refusal :=
  .next (s.writeResultAndFlag x (s.readV x + s.readV y) (carryOut (s.readV x) (s.readV y)))

/-- SUB Vx, Vy (R149). -/
def execSub (x y : Nibble) (s : State) : Host.Outcome State Fault Refusal :=
  .next (s.writeResultAndFlag x (s.readV x - s.readV y) (noBorrow (s.readV x) (s.readV y)))

/-- SHR Vx {, Vy} (R150). -/
def execShr (x y : Nibble) (s : State) : Host.Outcome State Fault Refusal :=
  .next (s.writeResultAndFlag x (shiftOperand s x y >>> 1) (shiftedOutRight (shiftOperand s x y)))

/-- SUBN Vx, Vy (R151). -/
def execSubn (x y : Nibble) (s : State) : Host.Outcome State Fault Refusal :=
  .next (s.writeResultAndFlag x (s.readV y - s.readV x) (noBorrow (s.readV y) (s.readV x)))

/-- SHL Vx {, Vy} (R152). -/
def execShl (x y : Nibble) (s : State) : Host.Outcome State Fault Refusal :=
  .next (s.writeResultAndFlag x (shiftOperand s x y <<< 1) (shiftedOutLeft (shiftOperand s x y)))

/-- RND Vx, kk (R153). -/
def execRnd (x : Nibble) (kk : Byte) (s : State) : Host.Outcome State Fault Refusal :=
  .next (s.dropRand.writeResult x (s.nextRand &&& kk))

end Sys2Proof.Machine
end

