-- ==== Sys2Proof/Machine/Control.lean ====
section
/-! DEFINITION. The meanings of the control transfers and of `Invalid` (40_control_flow.md; 60_exceptions.md R231). -/

namespace Sys2Proof.Machine

/-- RET (R118). -/
def execRet (s : State) : Host.Outcome State Fault Refusal :=
  match s.pop with
  | some (a, s') => .next (s'.setPc a)
  | none => raise .stackUnderflow (encode .ret) s

/-- JP nnn (R119). -/
def execJp (nnn : Imm12) (s : State) : Host.Outcome State Fault Refusal := .next (s.setPc (nnn.zeroExtend 16))

/-- CALL nnn (R120). -/
def execCall (nnn : Imm12) (s : State) : Host.Outcome State Fault Refusal :=
  match s.push (s.pc + 2) with
  | some s' => .next (s'.setPc (nnn.zeroExtend 16))
  | none => raise .stackOverflow (encode (.call nnn)) s

/-- SE Vx, kk (R121). -/
def execSeImm (x : Nibble) (kk : Byte) (s : State) : Host.Outcome State Fault Refusal := .next (s.skipIf (s.readV x == kk))

/-- SNE Vx, kk (R122). -/
def execSneImm (x : Nibble) (kk : Byte) (s : State) : Host.Outcome State Fault Refusal := .next (s.skipIf (s.readV x != kk))

/-- SE Vx, Vy (R123). -/
def execSeReg (x y : Nibble) (s : State) : Host.Outcome State Fault Refusal := .next (s.skipIf (s.readV x == s.readV y))

/-- SNE Vx, Vy (R124). -/
def execSneReg (x y : Nibble) (s : State) : Host.Outcome State Fault Refusal := .next (s.skipIf (s.readV x != s.readV y))

/-- JP V0, nnn (R125): the offset register is always V0. -/
def execJpV0 (nnn : Imm12) (s : State) : Host.Outcome State Fault Refusal :=
  .next (s.setPc (nnn.zeroExtend 16 + (s.readV 0).zeroExtend 16))

/-- SYS nnn (R117). -/
def execSys (nnn : Imm12) (s : State) : Host.Outcome State Fault Refusal :=
  match s.cfg.sysMode with
  | .fault => raise .unimplementedOpcode (encode (.sys nnn)) s
  | .nop => .next s.advance

/-- `Execute(Invalid(w))` (60_exceptions.md R231). -/
def execInvalid (word : Word) (s : State) : Host.Outcome State Fault Refusal := raise .decodeError (encode (.invalid word)) s

end Sys2Proof.Machine
end

