-- ==== Sys2Proof/Machine/Display.lean ====
section
/-! DEFINITION. The meanings of CLS and DRW, and the sprite blitter with its collision detector (43_display.md). -/

namespace Sys2Proof.Machine

/-- One set sprite bit at (cx, cy): XOR the pixel it lands on with 1, and report a pixel that was on (R192, R197). The pair is the
display and the collision so far. -/
def blitPixel (wrap : Bool) (cx cy : Nat) (acc : Display × Bool) : Display × Bool :=
  match place wrap cx cy with
  | none => acc
  | some (px, py) => (acc.1.put px py (!acc.1.get px py), acc.2 || acc.1.get px py)

/-- Column offset c of a sprite row is bit 7 − c (R193). -/
def spriteBit (row : Byte) (c : Nat) : Bool := row.getLsbD (7 - c)

/-- One sprite row at display row cy: columns 0 to 7 in order (R192). -/
def blitRow (wrap : Bool) (ox cy : Nat) (row : Byte) (acc : Display × Bool) : Display × Bool :=
  (List.range 8).foldl (fun acc c => if spriteBit row c then blitPixel wrap (ox + c) cy acc else acc) acc

/-- The rows of a sprite, the first at display row cy (R192). -/
def blitRows (wrap : Bool) (ox : Nat) : Nat → List Byte → Display × Bool → Display × Bool
  | _, [], acc => acc
  | cy, row :: rows, acc => blitRows wrap ox (cy + 1) rows (blitRow wrap ox cy row acc)

/-- The sprite in the n bytes at I, drawn at (V[x], V[y]) on the display: the new display and the collision flag (R192, R194). -/
def drawSprite (x y n : Nibble) (s : State) : Display × Bool :=
  blitRows s.cfg.wrapSprites (originX (s.readV x)) (originY (s.readV y)) (s.mem.readBytes s.i.toNat n.toNat) (s.disp, false)

/-- CLS (R191). -/
def execCls (s : State) : Host.Outcome State Fault Refusal := .next (s.setDisp Display.blank).advance

/-- DRW Vx, Vy, n (R192): n = 0 reads no memory and needs no range. -/
def execDrw (x y n : Nibble) (s : State) : Host.Outcome State Fault Refusal :=
  if n = 0 ∨ rangeOk s.i.toNat n.toNat = true then
    let drawn := drawSprite x y n s
    .next ((s.setDisp drawn.1).setV flagReg (flagByte drawn.2)).advance
  else raise .addressFault (encode (.drw x y n)) s

end Sys2Proof.Machine
end

