-- ==== Sys2Proof/Machine/Index.lean ====
section
/-! DEFINITION. The meanings of the instructions that set I and that move bytes between registers and memory at I
(42_index_memory.md). The whole range is checked before any byte moves (20_memory.md R64). -/

namespace Sys2Proof.Machine

/-- LD I, nnn (R170). -/
def execLdI (nnn : Imm12) (s : State) : Host.Outcome State Fault Refusal := .next (s.setI (nnn.zeroExtend 16)).advance

/-- ADD I, Vx (R171): mod 65536, no flag. -/
def execAddI (x : Nibble) (s : State) : Host.Outcome State Fault Refusal :=
  .next (s.setI (s.i + (s.readV x).zeroExtend 16)).advance

/-- LD F, Vx (R172). -/
def execLdF (x : Nibble) (s : State) : Host.Outcome State Fault Refusal := .next (s.setI (glyphAddress (s.readV x))).advance

/-- LD B, Vx (R173). -/
def execLdB (x : Nibble) (s : State) : Host.Outcome State Fault Refusal :=
  if rangeOk s.i.toNat 3 then
    .next (s.setMem (s.mem.writeBytes s.i.toNat (bcdDigits (s.readV x)))).advance
  else raise .addressFault (encode (.ldB x)) s

/-- LD [I], Vx (R174). -/
def execLdMemVx (x : Nibble) (s : State) : Host.Outcome State Fault Refusal :=
  if rangeOk s.i.toNat (x.toNat + 1) then
    .next (s.setMem (s.mem.writeBytes s.i.toNat (s.readVs x))).advance
  else raise .addressFault (encode (.ldMemVx x)) s

/-- LD Vx, [I] (R175). -/
def execLdVxMem (x : Nibble) (s : State) : Host.Outcome State Fault Refusal :=
  if rangeOk s.i.toNat (x.toNat + 1) then
    .next (s.setVs 0 (s.mem.readBytes s.i.toNat (x.toNat + 1))).advance
  else raise .addressFault (encode (.ldVxMem x)) s

end Sys2Proof.Machine
end

