-- ==== Sys2Proof/Machine/KeysTimers.lean ====
section
/-! DEFINITION. The meanings of the key skips, the key wait and the timer transfers (44_timers_keys.md). -/

namespace Sys2Proof.Machine

/-- SKP Vx (R211). -/
def execSkp (x : Nibble) (s : State) : Host.Outcome State Fault Refusal :=
  match keyIndex s.cfg.keyIndexMode (s.readV x) with
  | some k => .next (s.skipIf (s.readKey k))
  | none => raise .addressFault (encode (.skp x)) s

/-- SKNP Vx (R212). -/
def execSknp (x : Nibble) (s : State) : Host.Outcome State Fault Refusal :=
  match keyIndex s.cfg.keyIndexMode (s.readV x) with
  | some k => .next (s.skipIf (!s.readKey k))
  | none => raise .addressFault (encode (.sknp x)) s

/-- LD Vx, DT (R213). -/
def execLdVxDt (x : Nibble) (s : State) : Host.Outcome State Fault Refusal := .next (s.setV x s.dt).advance

/-- LD Vx, K (R214): with no key pressed the PC is written with itself and nothing else changes, so the instruction runs again. -/
def execLdVxK (x : Nibble) (s : State) : Host.Outcome State Fault Refusal :=
  match lowestPressed s with
  | some k => .next (s.setV x (k.zeroExtend 8)).advance
  | none => .next (s.setPc s.pc)

/-- LD DT, Vx (R215). -/
def execLdDtVx (x : Nibble) (s : State) : Host.Outcome State Fault Refusal := .next (s.setDt (s.readV x)).advance

/-- LD ST, Vx (R216). -/
def execLdStVx (x : Nibble) (s : State) : Host.Outcome State Fault Refusal := .next (s.setSt (s.readV x)).advance

end Sys2Proof.Machine
end

