-- ==== Sys2Proof/Machine/Fetch.lean ====
section
/-! DEFINITION. The fetch: the check of the PC (20_memory.md R69) and the big-endian read of the word (R66). -/

namespace Sys2Proof.Machine

/-- `FetchCheck(PC)` (R69). -/
def fetchCheck (c : FetchCheck) (pc : Word) : Bool :=
  match c with
  | .strict => decide (pc.toNat % 2 = 0 ∧ 0x200 ≤ pc.toNat ∧ pc.toNat ≤ 0xFFE)
  | .boundsOnly => decide (pc.toNat ≤ 0xFFE)

/-- `FetchWord(a)` (R66): the byte at the lower address is the most significant. -/
def fetchWord (m : Memory) (a : Nat) : Word := wordOfBytes (m.read a) (m.read (a + 1))

/-- The fetch phase (40_control_flow.md R112): the word at PC, or none when the check fails. -/
def fetch (s : State) : Option Word :=
  if fetchCheck s.cfg.fetchCheck s.pc then some (fetchWord s.mem s.pc.toNat) else none

end Sys2Proof.Machine
end

