-- ==== Sys2Proof/Machine/Cycle.lean ====
section
/-! DEFINITION. The core's cycle (40_control_flow.md R110) and one step of whichever agent moves next (20_memory.md R74). -/

namespace Sys2Proof.Machine

/-- `Cycle()` (R110): fetch, decode, execute. A halted core performs none, so the request is ignored (R111, 60_exceptions.md R250). -/
def cycle (s : State) : Host.Outcome State Fault Refusal :=
  if s.halted then .next s
  else
    match fetch s with
    | none => .next (s.takeFault .addressFault none)
    | some w => exec (decode w) s

/-- One atomic step of the agent an event names (R74, R76). -/
def agentStep (e : HostEvent) (s : State) : Host.Outcome State Fault Refusal :=
  match e with
  | .cycle => cycle s
  | .tick => .next s.tick
  | .key k pressed => .next (s.setKey k pressed)
  | .reset font rom => hostReset font rom s

/-- The next agent in the schedule takes its step; with none pending the host requests a cycle. -/
def nextStep (s : State) : Host.Outcome State Fault Refusal :=
  match s.schedule with
  | [] => cycle s
  | e :: rest => agentStep e (s.setSchedule rest)

end Sys2Proof.Machine
end

