-- ==== Sys2Proof/Machine/Step.lean ====
section
/-! DEFINITION. The machine's one step, and the state in which a given word is the next instruction to run. -/

namespace Sys2Proof.Machine

/-- One step of the machine: one agent, one atomic step (20_memory.md R74). -/
def step (s : State) : Host.Outcome State Fault Refusal := nextStep s

/-- `s` with the word `w` stored, big-endian, where the next step fetches: the core is running, no other agent is pending, and the
PC passes the fetch check (it stays where it is if it already does, and is the entry point 0x200 otherwise). -/
def State.withFetchWord (s : State) (nbits w : Nat) : State :=
  let word : Word := BitVec.ofNat 16 (w % 2 ^ nbits)
  let pc : Word := if fetchCheck s.cfg.fetchCheck s.pc then s.pc else 0x200
  { s with
    mem := s.mem.writeBytes pc.toNat [highByte word, lowByte word]
    pc := pc
    halted := false
    schedule := [] }

end Sys2Proof.Machine
end

