-- ==== Sys2Proof/Machine/Outputs.lean ====
section
/-! DEFINITION. The core's output ports (60_exceptions.md R250), each a function of the state: none is state (10_state.md R47,
43_display.md R198). The fault ports are the latch itself, `State.fault` and `FaultLatch.code`. -/

namespace Sys2Proof.Machine

/-- `sound_on` (60_exceptions.md R248). -/
def soundOn (s : State) : Bool := s.st != 0

/-- `disp`: the pixel the display reader sees between cycles (43_display.md R198). -/
def displayOut (s : State) (px : Fin 64) (py : Fin 32) : Bool := s.disp.get px py

/-- `trace_word`, `trace_op`: what a cycle from s emits when it reaches Decode, even if Execute then faults; nothing when the fetch
faults or no cycle runs (40_control_flow.md R113). -/
def traceOut (s : State) : Option (Word × Instr) :=
  if s.halted then none else (fetch s).map fun w => (w, decode w)

/-- `step_result`: what a requested cycle reports (R230, R250). -/
inductive StepResult
  | ok
  | fault (c : FaultCause)
  | ignored -- the core is halted and runs no cycle
deriving DecidableEq, Repr

/-- The result of the cycle requested at s: the fault it latches, if any. -/
def stepResult (s : State) : StepResult :=
  if s.halted then .ignored
  else
    match cycle s with
    | .next t =>
      match t.halted, t.fault.cause with
      | true, some c => .fault c
      | _, _ => .ok
    | .fault _ => .ok
    | .refused _ => .ok

/-- CLS and DRW, the instructions that refresh the display (43_display.md R198). -/
def Instr.drawsDisplay : Instr → Bool
  | .cls => true
  | .drw _ _ _ => true
  | _ => false

/-- `disp_updated`: the cycle requested at s completes CLS or DRW (43_display.md R198). -/
def dispUpdated (s : State) : Bool :=
  stepResult s == .ok && (traceOut s).any fun t => Instr.drawsDisplay t.2

end Sys2Proof.Machine
end

