-- ==== Sys2Proof/Safety.lean ====
section
/-! DEFINITION. What counts as a good state and a good run: no fault latched, at rest (70_reset_and_hazards.md R273), and the
invariants every step keeps. -/

namespace Sys2Proof.Machine

/-- No fault latched: the core can still run (10_state.md R45, R46). -/
def State.faultFree (s : State) : Bool := s.fault.cause.isNone && !s.halted

/-- The word at PC is a jump to PC itself (R273). -/
def State.selfJump (s : State) : Bool :=
  fetchCheck s.cfg.fetchCheck s.pc && fetchWord s.mem s.pc.toNat == (0x1000#16 ||| s.pc)

/-- `at_rest(s)` (R273): halted, or looping on one self-jump. -/
def State.atRest (s : State) : Bool := s.halted || s.selfJump

/-- A run of k steps that latches no fault. -/
def SafeRun (k : Nat) (s : State) : Prop :=
  ∃ t : State, Host.Core.run Sys2Proof.core k s = .next t ∧ t.faultFree = true

/-- The halt bit and the latch agree (R45, R46, 60_exceptions.md R237): a fault is latched exactly while the core is halted, a latch
with no fault is clear, and a latch without a word holds 0. -/
def State.latchConsistent (s : State) : Prop :=
  (s.halted = true ↔ s.fault.cause ≠ none) ∧
  (s.fault.cause = none → s.fault = FaultLatch.clear) ∧
  (s.fault.wordValid = false → s.fault.word = 0)

/-- What every step keeps: memory in canonical form and the latch consistent. -/
def State.Inv (s : State) : Prop := s.mem.wf = true ∧ s.latchConsistent

/-- The PC's bounds (40_control_flow.md R115): a return address is at most 0x1000, and no PC exceeds 0x10FE. -/
def State.pcBounded (s : State) : Prop :=
  s.pc.toNat ≤ 0x10FE ∧ ∀ j : Fin 16, (s.stackEntry j).toNat ≤ 0x1000

end Sys2Proof.Machine
end

