-- ==== Sys2Proof/Certificates/Slice0/Obligations.lean ====
section
/-! DEFINITION. The statements for the provers, each a numbered rule of the spec or a property of the whole machine, and the few words
they are written in: what a state change leaves alone, what a fault's entry is, and which display pixels a sprite covers. -/

namespace Sys2Proof.Machine

/-- The parts of the state beside the general registers, the PC and the launch parameters. -/
inductive Part
  | index | stack | delay | sound | display | keypad | memory | latch | schedule | random
deriving DecidableEq, Repr

/-- From s to t no part of the state changes but those named; the launch parameters never do. Nothing is said of V and PC. -/
structure Frame (changed : List Part) (s t : State) : Prop where
  index    : Part.index ∉ changed → t.i = s.i
  stack    : Part.stack ∉ changed → t.sp = s.sp ∧ ∀ j, t.stackEntry j = s.stackEntry j
  delay    : Part.delay ∉ changed → t.dt = s.dt
  sound    : Part.sound ∉ changed → t.st = s.st
  display  : Part.display ∉ changed → ∀ px py, t.disp.get px py = s.disp.get px py
  keypad   : Part.keypad ∉ changed → ∀ k, t.readKey k = s.readKey k
  memory   : Part.memory ∉ changed → ∀ a, t.mem.read a = s.mem.read a
  latch    : Part.latch ∉ changed → t.fault = s.fault ∧ t.halted = s.halted
  schedule : Part.schedule ∉ changed → t.schedule = s.schedule
  random   : Part.random ∉ changed → t.randIn = s.randIn ∧ t.draws = s.draws
  config   : t.cfg = s.cfg

/-- From s to t no general register changes but those named, and no other part of the state but those named. -/
def Unchanged (regs : List Nibble) (parts : List Part) (s t : State) : Prop :=
  (∀ r, r ∉ regs → t.readV r = s.readV r) ∧ Frame parts s t

/-- t is s with fault c entered: the latch holds the cause, the fetch address and the word (0 and not valid when the fetch failed), the
core is halted, and nothing else has changed, the PC included (60_exceptions.md R237). -/
def Faulted (c : FaultCause) (word : Option Word) (s t : State) : Prop :=
  t.fault.cause = some c ∧ t.fault.pc = s.pc ∧ t.fault.word = word.getD 0 ∧ t.fault.wordValid = word.isSome ∧
  t.halted = true ∧ t.pc = s.pc ∧ Unchanged [] [.latch] s t

/-- At s the core's cycle is the next step, and c is the state it runs on: s itself when nothing is scheduled, and s without the schedule's
first entry when that entry requests the cycle (notes/assumptions/2.md). -/
def CycleIsNext (s c : State) : Prop :=
  (s.schedule = [] ∧ c = s) ∨ ∃ rest, s.schedule = .cycle :: rest ∧ c = s.setSchedule rest

/-- The bytes at a and a + 1, big-endian, are a word of memory: what a fetch at a reads. -/
def WordAt (m : Memory) (a : Nat) (w : Word) : Prop :=
  w.toNat = 256 * (m.read a).toNat + (m.read (a + 1)).toNat

/-- A set bit of the n-row sprite at memory address base, drawn with its origin at (ox, oy), lands on display pixel (px, py): bit 7 − c of row
r is at column ox + c and row oy + r, taken mod (64, 32) when sprites wrap (43_display.md R192-R196). -/
def SpriteCovers (wrap : Bool) (ox oy n : Nat) (m : Memory) (base : Nat) (px : Fin 64) (py : Fin 32) : Prop :=
  ∃ r c : Nat, r < n ∧ c < 8 ∧ (m.read (base + r)).getLsbD (7 - c) = true ∧
    (wrap = true → (ox + c) % 64 = px.val ∧ (oy + r) % 32 = py.val) ∧
    (wrap = false → ox + c = px.val ∧ oy + r = py.val)

/-- The sprite DRW Vx, Vy, n draws at s covers a pixel: the origin is (Vx mod 64, Vy mod 32) (43_display.md R194). -/
def DrawCovers (x y n : Nibble) (s : State) (px : Fin 64) (py : Fin 32) : Prop :=
  SpriteCovers s.cfg.wrapSprites ((s.readV x).toNat % 64) ((s.readV y).toNat % 32) n.toNat s.mem s.i.toNat px py

/-- The addresses an instruction's execution reads (20_memory.md R63). -/
def ReadsAddress (i : Instr) (s : State) (a : Nat) : Prop :=
  (∃ x y n, i = .drw x y n ∧ s.i.toNat ≤ a ∧ a < s.i.toNat + n.toNat) ∨
  (∃ x, i = .ldVxMem x ∧ s.i.toNat ≤ a ∧ a ≤ s.i.toNat + x.toNat)

/-- The addresses an instruction's execution writes (20_memory.md R63). -/
def WritesAddress (i : Instr) (s : State) (a : Nat) : Prop :=
  (∃ x, i = .ldB x ∧ s.i.toNat ≤ a ∧ a ≤ s.i.toNat + 2) ∨
  (∃ x, i = .ldMemVx x ∧ s.i.toNat ≤ a ∧ a ≤ s.i.toNat + x.toNat)

/-- The general registers an instruction may write, from the table of 10_state.md R32. -/
def WritesRegister (i : Instr) (r : Nibble) : Prop :=
  (∃ x kk, (i = .ldImm x kk ∨ i = .addImm x kk ∨ i = .rnd x kk) ∧ r = x) ∨
  (∃ x y, (i = .ldReg x y ∨ i = .orReg x y ∨ i = .andReg x y ∨ i = .xorReg x y) ∧ r = x) ∨
  (∃ x y, (i = .addReg x y ∨ i = .sub x y ∨ i = .subn x y ∨ i = .shr x y ∨ i = .shl x y) ∧ (r = x ∨ r = 0xF)) ∨
  (∃ x, i = .ldVxMem x ∧ r.toNat ≤ x.toNat) ∨
  (∃ x y n, i = .drw x y n ∧ r = 0xF) ∨
  (∃ x, (i = .ldVxDt x ∨ i = .ldVxK x) ∧ r = x)

end Sys2Proof.Machine

open Sys2Proof Sys2Proof.Machine

/-! ## Encoding -/

/-- Words written out from the spec's encodings decode to the instructions they stand for: the four words the source itself decodes, and
one or more of every family (95_test_vectors.md L1 S2-S5, L2.1). The patterns beyond those four are the spec's general knowledge (decision D35). -/
def Obligations.SpecWordsDecode : Prop :=
  decode 0x00E0 = .cls ∧ decode 0x1ABC = .jp 0xABC ∧ decode 0x6A11 = .ldImm 0xA 0x11 ∧ decode 0xD012 = .drw 0 1 2 ∧
  decode 0x00EE = .ret ∧ decode 0x00E1 = .sys 0x0E1 ∧ decode 0x2FFF = .call 0xFFF ∧ decode 0x3F01 = .seImm 0xF 0x01 ∧
  decode 0x4000 = .sneImm 0 0 ∧ decode 0x7FFF = .addImm 0xF 0xFF ∧ decode 0x9AB0 = .sneReg 0xA 0xB ∧ decode 0xB123 = .jpV0 0x123 ∧
  decode 0x5120 = .seReg 1 2 ∧ decode 0x5121 = .invalid 0x5121 ∧ decode 0x8AB5 = .sub 0xA 0xB ∧
  decode 0x8ABE = .shl 0xA 0xB ∧ decode 0xA123 = .ldI 0x123 ∧ decode 0xC3FF = .rnd 3 0xFF ∧ decode 0xE0A1 = .sknp 0 ∧
  decode 0xF055 = .ldMemVx 0 ∧ decode 0xFFFF = .invalid 0xFFFF

/-- Decoding an encoded well-formed instruction gives it back, whatever its operands (30_encoding.md R94, R106;
the bit patterns are the spec's general knowledge, decision D35, notes/assumptions/11.md). -/
def Obligations.DecodeOfEncodeIsIdentity : Prop :=
  ∀ i : Instr, i.wellFormed = true → decode (encode i) = i

/-- The decoder is total and loses nothing: every word decodes to a well-formed instruction whose word it is, `Invalid` carrying the raw
word; and two bytes of a byte list are decoded as their big-endian word (30_encoding.md R90, R94, R103, R104). -/
def Obligations.EncodeOfDecodeIsIdentity : Prop :=
  ∀ w : Word, (decode w).wellFormed = true ∧ encode (decode w) = w ∧
    ∀ (hi lo : Byte) (rest : List Byte), w.toNat = 256 * hi.toNat + lo.toNat →
      decodeBytes (hi :: lo :: rest) = .ok (decode w, rest)

/-- The invalid space, family by family: 5xyN and 9xyN with N ≠ 0, 8xyN with N in 8-D or F, Exkk with kk neither 9E nor A1, Fxkk with kk
none of the nine; every other word is an operation (30_encoding.md R96-R102, R106). The sub-operation values are the spec's general
knowledge, and N = 0 in families 5 and 9 is its decision D5. -/
def Obligations.InvalidSpaceIsExact : Prop :=
  ∀ w : Word,
    let op := w.toNat / 4096; let n := w.toNat % 16; let kk := w.toNat % 256
    ((∃ u, decode w = .invalid u) ↔
      (op = 0x5 ∧ n ≠ 0) ∨ (op = 0x8 ∧ 8 ≤ n ∧ n ≠ 0xE) ∨ (op = 0x9 ∧ n ≠ 0) ∨ (op = 0xE ∧ kk ≠ 0x9E ∧ kk ≠ 0xA1) ∨
      (op = 0xF ∧ kk ≠ 0x07 ∧ kk ≠ 0x0A ∧ kk ≠ 0x15 ∧ kk ≠ 0x18 ∧ kk ≠ 0x1E ∧ kk ≠ 0x29 ∧ kk ≠ 0x33 ∧ kk ≠ 0x55 ∧ kk ≠ 0x65))

/-! ## The cycle -/

/-- R110: with the core running and its cycle next, a failed fetch check raises AddressFault with no word and no trace, and otherwise the
word of the two bytes at PC is traced with its decoding and the step is exec of that instruction. The step adds nothing around exec but
the removal of the schedule's entry, if one requested the cycle (`CycleIsNext`, the model's, notes/assumptions/2.md). -/
def Obligations.StepRunsTheDecodedInstruction : Prop :=
  ∀ s c : State, CycleIsNext s c → c.halted = false →
    (fetchCheck c.cfg.fetchCheck c.pc = false → traceOut c = none ∧ ∃ t, step s = .next t ∧ Faulted .addressFault none c t) ∧
    (fetchCheck c.cfg.fetchCheck c.pc = true → ∀ (w : Word) (i : Instr), WordAt c.mem c.pc.toNat w → decode w = i →
      traceOut c = some (w, i) ∧ step s = exec i c)

/-- R66: the fetch is big-endian, the byte at the lower address the most significant. -/
def Obligations.FetchIsBigEndian : Prop :=
  ∀ (m : Memory) (a : Nat), (fetchWord m a).toNat = 256 * (m.read a).toNat + (m.read (a + 1)).toNat

/-- The fetch check (20_memory.md R69, decision D3): under `strict` a PC that is odd, below 0x200 or above 0xFFE faults, under `bounds_only`
only one above 0xFFE; a faulting fetch latches AddressFault with the PC and no word, and any other fetch succeeds. -/
def Obligations.FetchCheckDecidesTheFetch : Prop :=
  ∀ s c : State, CycleIsNext s c → c.halted = false →
    let bad := (c.cfg.fetchCheck = .strict ∧ (c.pc.toNat % 2 = 1 ∨ c.pc.toNat < 0x200 ∨ 0xFFE < c.pc.toNat)) ∨
      (c.cfg.fetchCheck = .boundsOnly ∧ 0xFFE < c.pc.toNat)
    (bad → ∃ t, step s = .next t ∧ Faulted .addressFault none c t) ∧
    (¬bad → ∃ w, fetch c = some w ∧ WordAt c.mem c.pc.toNat w)

/-- A halted core ignores a request for a cycle: nothing changes but the request's own entry in the schedule (40_control_flow.md R111,
60_exceptions.md R238, R250, decision D1; notes/assumptions/3.md). -/
def Obligations.HaltedCoreIgnoresCycles : Prop :=
  ∀ s c : State, CycleIsNext s c → s.halted = true →
    step s = .next c ∧ c.pc = s.pc ∧ Unchanged [] [.schedule] s c ∧ stepResult c = .ignored ∧ traceOut c = none

/-- R237: a cycle that faults is precise. It has latched its cause and code, the fetch address and the fetched word, it has halted the core
and reports the cause, and it has changed nothing else. That the report, the `step_result` port, is a function of the state the cycle starts
from (`stepResult`) is the model's form of it (notes/assumptions/26.md). -/
def Obligations.FaultsArePrecise : Prop :=
  ∀ c t : State, c.halted = false → cycle c = .next t → t.halted = true →
    ∃ f, stepResult c = .fault f ∧ t.fault.code = f.code ∧ t.fault.code ≠ 0 ∧
      (fetch c = none → Faulted f none c t) ∧
      (∀ w, fetch c = some w → WordAt c.mem c.pc.toNat w ∧ Faulted f (some w) c t)

/-- Which instruction raises which cause, under which code, and that no other instruction raises any (60_exceptions.md R230, R236; the key index causes are
decision D6, SYS is D4). -/
def Obligations.OnlyTheNamedInstructionsFault : Prop :=
  ∀ (i : Instr) (s t : State), s.halted = false → exec i s = .next t → t.halted = true →
    (t.fault.cause = some .decodeError ∧ t.fault.code = 1 ∧ ∃ w, i = .invalid w) ∨
    (t.fault.cause = some .addressFault ∧ t.fault.code = 2 ∧
      ((∃ x y n, i = .drw x y n) ∨ (∃ x, i = .ldB x ∨ i = .ldMemVx x ∨ i = .ldVxMem x) ∨
       (s.cfg.keyIndexMode = .fault ∧ ∃ x, i = .skp x ∨ i = .sknp x))) ∨
    (t.fault.cause = some .stackOverflow ∧ t.fault.code = 3 ∧ ∃ nnn, i = .call nnn) ∨
    (t.fault.cause = some .stackUnderflow ∧ t.fault.code = 4 ∧ i = .ret) ∨
    (t.fault.cause = some .unimplementedOpcode ∧ t.fault.code = 5 ∧ s.cfg.sysMode = .fault ∧ ∃ nnn, i = .sys nnn)

/-- Every step answers a next state, unless the agent that moves is a reset whose launch the spec does not describe (K5; R83, R265). -/
def Obligations.EveryStepCompletes : Prop :=
  ∀ s : State,
    (∀ font rom rest, s.schedule = .reset font rom :: rest → font.length = 80 ∧ rom.length ≤ 3584) → ∃ t, step s = .next t

/-- A word placed by withFetchWord is the next instruction to run (the model's own interface; notes/assumptions/9.md). -/
def Obligations.PlacedWordRunsNext : Prop :=
  ∀ (s : State) (w : Word), step (s.withFetchWord 16 w.toNat) = exec (decode w) (s.withFetchWord 16 w.toNat)

/-! ## Control transfer -/

/-- R117 for SYS nnn: UnimplementedOpcode when `SYS_MODE = fault`, and only the PC's advance when it is `nop`; nnn is never used
(decision D4; the pattern 0nnn is general knowledge). -/
def Obligations.SysFaultsOrAdvances : Prop :=
  ∀ (nnn : Imm12) (s : State), nnn ≠ 0x0E0 → nnn ≠ 0x0EE →
    decode (0x0#4 ++ nnn) = .sys nnn ∧
    (s.cfg.sysMode = .fault → ∃ t, exec (.sys nnn) s = .next t ∧ Faulted .unimplementedOpcode (some (0x0#4 ++ nnn)) s t) ∧
    (s.cfg.sysMode = .nop → ∃ t, exec (.sys nnn) s = .next t ∧ t.pc = s.pc + 2 ∧ Unchanged [] [] s t)

/-- R118 and R234 for RET: it pops the return address into PC; with SP = 0 it raises StackUnderflow and changes nothing else. That the popped
entry keeps its value is decision D19.
The bit patterns are the spec's general knowledge (decision D35, notes/assumptions/11.md). -/
def Obligations.ReturnPopsThePc : Prop :=
  decode 0x00EE = .ret ∧
  (∀ (s : State) (j : Fin 16), s.sp.val = j.val + 1 →
    ∃ t, exec .ret s = .next t ∧ t.pc = s.stackEntry j ∧ t.sp.val = j.val ∧ (∀ k, t.stackEntry k = s.stackEntry k) ∧
      Unchanged [] [.stack] s t) ∧
  (∀ s : State, s.sp.val = 0 → ∃ t, exec .ret s = .next t ∧ Faulted .stackUnderflow (some 0x00EE) s t)

/-- R119 for JP nnn. -/
def Obligations.JumpSetsThePc : Prop :=
  ∀ (nnn : Imm12) (s : State), decode (0x1#4 ++ nnn) = .jp nnn ∧
    ∃ t, exec (.jp nnn) s = .next t ∧ t.pc.toNat = nnn.toNat ∧ Unchanged [] [] s t

/-- CALL nnn with room on the stack pushes PC + 2 and jumps (40_control_flow.md R120, 10_state.md R36; that PC + 2 is pushed is decision D19).
The bit patterns are the spec's general knowledge (decision D35, notes/assumptions/11.md). -/
def Obligations.CallPushesAndJumps : Prop :=
  ∀ (nnn : Imm12) (s : State) (j : Fin 16), s.sp.val = j.val →
    decode (0x2#4 ++ nnn) = .call nnn ∧
    ∃ t, exec (.call nnn) s = .next t ∧ t.stackEntry j = s.pc + 2 ∧ (∀ k, k ≠ j → t.stackEntry k = s.stackEntry k) ∧
      t.sp.val = j.val + 1 ∧ t.pc.toNat = nnn.toNat ∧ Unchanged [] [.stack] s t

/-- R233: CALL raises StackOverflow when SP = 16, and changes nothing else; the word it latches is one that decodes to this CALL. -/
def Obligations.CallOnAFullStackOverflows : Prop :=
  ∀ (nnn : Imm12) (s : State), s.sp.val = 16 →
    ∃ t w, exec (.call nnn) s = .next t ∧ decode w = .call nnn ∧ Faulted .stackOverflow (some w) s t

/-- A CALL and the RET after it come back: PC is the CALL's PC + 2 and SP is what it was (40_control_flow.md R118, R120; decision D19). -/
def Obligations.ReturnUndoesCall : Prop :=
  ∀ (nnn : Imm12) (s t : State), s.sp.val < 16 → exec (.call nnn) s = .next t →
    ∃ u, exec .ret t = .next u ∧ u.pc = s.pc + 2 ∧ u.sp = s.sp ∧ Unchanged [] [.stack] s u ∧
      ∀ k : Fin 16, k.val < s.sp.val → u.stackEntry k = s.stackEntry k

/-- R121 and R122 for SE Vx, kk and SNE Vx, kk.
The bit patterns are the spec's general knowledge (decision D35, notes/assumptions/11.md). -/
def Obligations.SkipsOnAnImmediate : Prop :=
  ∀ (x : Nibble) (kk : Byte) (s : State),
    decode (0x3#4 ++ x ++ kk) = .seImm x kk ∧ decode (0x4#4 ++ x ++ kk) = .sneImm x kk ∧
    (∃ t, exec (.seImm x kk) s = .next t ∧ t.pc = (if s.readV x = kk then s.pc + 4 else s.pc + 2) ∧ Unchanged [] [] s t) ∧
    (∃ t, exec (.sneImm x kk) s = .next t ∧ t.pc = (if s.readV x ≠ kk then s.pc + 4 else s.pc + 2) ∧ Unchanged [] [] s t)

/-- R123 and R124 for SE Vx, Vy and SNE Vx, Vy; 5xyN and 9xyN with N ≠ 0 are Invalid.
The bit patterns are the spec's general knowledge (decision D35, notes/assumptions/11.md). -/
def Obligations.SkipsOnTwoRegisters : Prop :=
  ∀ (x y : Nibble) (s : State),
    decode (0x5#4 ++ x ++ y ++ 0x0#4) = .seReg x y ∧ decode (0x9#4 ++ x ++ y ++ 0x0#4) = .sneReg x y ∧
    (∀ n : Nibble, n ≠ 0 → decode (0x5#4 ++ x ++ y ++ n) = .invalid (0x5#4 ++ x ++ y ++ n) ∧
      decode (0x9#4 ++ x ++ y ++ n) = .invalid (0x9#4 ++ x ++ y ++ n)) ∧
    (∃ t, exec (.seReg x y) s = .next t ∧ t.pc = (if s.readV x = s.readV y then s.pc + 4 else s.pc + 2) ∧ Unchanged [] [] s t) ∧
    (∃ t, exec (.sneReg x y) s = .next t ∧ t.pc = (if s.readV x ≠ s.readV y then s.pc + 4 else s.pc + 2) ∧ Unchanged [] [] s t)

/-- JP V0, nnn adds V0, never Vx, and the sum does not wrap (40_control_flow.md R125; that the register is V0 is decision D8).
The bit patterns are the spec's general knowledge (decision D35, notes/assumptions/11.md). -/
def Obligations.JumpWithOffsetAddsV0 : Prop :=
  ∀ (nnn : Imm12) (s : State), decode (0xB#4 ++ nnn) = .jpV0 nnn ∧
    ∃ t, exec (.jpV0 nnn) s = .next t ∧ t.pc.toNat = nnn.toNat + (s.readV 0).toNat ∧ t.pc.toNat ≤ 0x10FE ∧ Unchanged [] [] s t

/-- R231 for `Invalid(w)`: executing it raises DecodeError with the PC and the word and does nothing else. -/
def Obligations.InvalidWordRaisesDecodeError : Prop :=
  ∀ (w : Word) (s : State), ∃ t, exec (.invalid w) s = .next t ∧ Faulted .decodeError (some w) s t

/-! ## Registers and ALU -/

/-- R142 and R144 for LD Vx, kk and LD Vx, Vy; x = 15 writes VF as an ordinary register.
The bit patterns are the spec's general knowledge (decision D35, notes/assumptions/11.md). -/
def Obligations.LoadsSetTheRegister : Prop :=
  ∀ (x y : Nibble) (kk : Byte) (s : State),
    decode (0x6#4 ++ x ++ kk) = .ldImm x kk ∧ decode (0x8#4 ++ x ++ y ++ 0x0#4) = .ldReg x y ∧
    (∃ t, exec (.ldImm x kk) s = .next t ∧ t.readV x = kk ∧ t.pc = s.pc + 2 ∧ Unchanged [x] [] s t) ∧
    (∃ t, exec (.ldReg x y) s = .next t ∧ t.readV x = s.readV y ∧ t.pc = s.pc + 2 ∧ Unchanged [x] [] s t)

/-- ADD Vx, kk adds mod 256 and leaves VF alone unless x = 15 (41_alu.md R143; no carry into VF is decision D9).
The bit patterns are the spec's general knowledge (decision D35, notes/assumptions/11.md). -/
def Obligations.AddImmediateWrapsWithoutAFlag : Prop :=
  ∀ (x : Nibble) (kk : Byte) (s : State), decode (0x7#4 ++ x ++ kk) = .addImm x kk ∧
    ∃ t, exec (.addImm x kk) s = .next t ∧ (t.readV x).toNat = ((s.readV x).toNat + kk.toNat) % 256 ∧
      t.pc = s.pc + 2 ∧ Unchanged [x] [] s t

/-- OR, AND and XOR, bit by bit, with VF unchanged unless x = 15 (41_alu.md R145-R147; VF unchanged is decision D10).
The bit patterns are the spec's general knowledge (decision D35, notes/assumptions/11.md). -/
def Obligations.LogicIsBitwise : Prop :=
  ∀ (x y : Nibble) (s : State),
    decode (0x8#4 ++ x ++ y ++ 0x1#4) = .orReg x y ∧ decode (0x8#4 ++ x ++ y ++ 0x2#4) = .andReg x y ∧
    decode (0x8#4 ++ x ++ y ++ 0x3#4) = .xorReg x y ∧
    (∃ t, exec (.orReg x y) s = .next t ∧
      (∀ k, (t.readV x).getLsbD k = ((s.readV x).getLsbD k || (s.readV y).getLsbD k)) ∧ t.pc = s.pc + 2 ∧ Unchanged [x] [] s t) ∧
    (∃ t, exec (.andReg x y) s = .next t ∧
      (∀ k, (t.readV x).getLsbD k = ((s.readV x).getLsbD k && (s.readV y).getLsbD k)) ∧ t.pc = s.pc + 2 ∧ Unchanged [x] [] s t) ∧
    (∃ t, exec (.xorReg x y) s = .next t ∧
      (∀ k, (t.readV x).getLsbD k = ((s.readV x).getLsbD k ^^ (s.readV y).getLsbD k)) ∧ t.pc = s.pc + 2 ∧ Unchanged [x] [] s t)

/-- R148 for ADD Vx, Vy: the sum mod 256 to Vx, then the carry of the exact sum to VF, which wins when x = 15.
The bit patterns are the spec's general knowledge (decision D35, notes/assumptions/11.md). -/
def Obligations.AddRegisterSetsTheCarry : Prop :=
  ∀ (x y : Nibble) (s : State), decode (0x8#4 ++ x ++ y ++ 0x4#4) = .addReg x y ∧
    ∃ t, exec (.addReg x y) s = .next t ∧
      (x ≠ 0xF → (t.readV x).toNat = ((s.readV x).toNat + (s.readV y).toNat) % 256) ∧
      t.readV 0xF = (if (s.readV x).toNat + (s.readV y).toNat > 255 then 1 else 0) ∧
      t.pc = s.pc + 2 ∧ Unchanged [x, 0xF] [] s t

/-- SUB Vx, Vy and SUBN Vx, Vy: the difference mod 256, then VF = 1 exactly when there is no borrow (41_alu.md R149, R151; which pattern
is which ordering is general knowledge, the flag last with x = 15 is decision D11).
The bit patterns are the spec's general knowledge (decision D35, notes/assumptions/11.md). -/
def Obligations.SubtractsSetNoBorrow : Prop :=
  ∀ (x y : Nibble) (s : State),
    decode (0x8#4 ++ x ++ y ++ 0x5#4) = .sub x y ∧ decode (0x8#4 ++ x ++ y ++ 0x7#4) = .subn x y ∧
    (∃ t, exec (.sub x y) s = .next t ∧
      (x ≠ 0xF → (t.readV x).toNat = ((s.readV x).toNat + 256 - (s.readV y).toNat) % 256) ∧
      t.readV 0xF = (if (s.readV x).toNat ≥ (s.readV y).toNat then 1 else 0) ∧ t.pc = s.pc + 2 ∧ Unchanged [x, 0xF] [] s t) ∧
    (∃ t, exec (.subn x y) s = .next t ∧
      (x ≠ 0xF → (t.readV x).toNat = ((s.readV y).toNat + 256 - (s.readV x).toNat) % 256) ∧
      t.readV 0xF = (if (s.readV y).toNat ≥ (s.readV x).toNat then 1 else 0) ∧ t.pc = s.pc + 2 ∧ Unchanged [x, 0xF] [] s t)

/-- SHR and SHL shift the value of Vx, or of Vy when `SHIFT_SOURCE = Vy`, by one bit into Vx, then the bit shifted out to VF (41_alu.md
R150, R152; the meaning of `Vy` is decision D37, the flag last with x = 15 is D11).
The bit patterns are the spec's general knowledge (decision D35, notes/assumptions/11.md). -/
def Obligations.ShiftsMoveOneBit : Prop :=
  ∀ (x y : Nibble) (s : State),
    let v := (if s.cfg.shiftSource = .vx then s.readV x else s.readV y).toNat
    decode (0x8#4 ++ x ++ y ++ 0x6#4) = .shr x y ∧ decode (0x8#4 ++ x ++ y ++ 0xE#4) = .shl x y ∧
    (∃ t, exec (.shr x y) s = .next t ∧ (x ≠ 0xF → (t.readV x).toNat = v / 2) ∧ (t.readV 0xF).toNat = v % 2 ∧
      t.pc = s.pc + 2 ∧ Unchanged [x, 0xF] [] s t) ∧
    (∃ t, exec (.shl x y) s = .next t ∧ (x ≠ 0xF → (t.readV x).toNat = v * 2 % 256) ∧ (t.readV 0xF).toNat = v / 128 ∧
      t.pc = s.pc + 2 ∧ Unchanged [x, 0xF] [] s t)

/-- RND Vx, kk stores a random byte masked by kk and consumes one draw: the byte standing at the port, whatever it is, or the free value
(41_alu.md R153, decision D26; notes/assumptions/4.md). It holds for every byte.
The bit patterns are the spec's general knowledge (decision D35, notes/assumptions/11.md). -/
def Obligations.RandomIsMasked : Prop :=
  ∀ (x : Nibble) (kk : Byte) (s : State), decode (0xC#4 ++ x ++ kk) = .rnd x kk ∧
    ∃ (r : Byte) (t : State), exec (.rnd x kk) s = .next t ∧ t.readV x = r &&& kk ∧
      (∀ b bs, s.randIn = b :: bs → r = b ∧ t.randIn = bs ∧ t.draws = s.draws) ∧
      (s.randIn = [] → r = Config.rand8 s.draws ∧ t.randIn = [] ∧ t.draws = s.draws + 1) ∧
      t.pc = s.pc + 2 ∧ Unchanged [x] [.random] s t

/-! ## Index and memory -/

/-- R170 for LD I, nnn.
The bit patterns are the spec's general knowledge (decision D35, notes/assumptions/11.md). -/
def Obligations.LoadIndexImmediate : Prop :=
  ∀ (nnn : Imm12) (s : State), decode (0xA#4 ++ nnn) = .ldI nnn ∧
    ∃ t, exec (.ldI nnn) s = .next t ∧ t.i.toNat = nnn.toNat ∧ t.pc = s.pc + 2 ∧ Unchanged [] [.index] s t

/-- ADD I, Vx adds mod 65536 with no flag, and LD F, Vx points I at the glyph of Vx's low nibble (42_index_memory.md R171, R172; decisions
D13, D18).
The bit patterns are the spec's general knowledge (decision D35, notes/assumptions/11.md). -/
def Obligations.IndexArithmetic : Prop :=
  ∀ (x : Nibble) (s : State),
    decode (0xF#4 ++ x ++ 0x1E#8) = .addI x ∧ decode (0xF#4 ++ x ++ 0x29#8) = .ldF x ∧
    (∃ t, exec (.addI x) s = .next t ∧ t.i.toNat = (s.i.toNat + (s.readV x).toNat) % 65536 ∧ t.pc = s.pc + 2 ∧
      Unchanged [] [.index] s t) ∧
    (∃ t, exec (.ldF x) s = .next t ∧ t.i.toNat = 0x050 + 5 * ((s.readV x).toNat % 16) ∧ t.pc = s.pc + 2 ∧
      Unchanged [] [.index] s t)

/-- LD B, Vx stores the three decimal digits at I, I + 1 and I + 2, the most significant first; with I + 2 > 0xFFF it raises AddressFault
and stores nothing (42_index_memory.md R173; the check of the whole range is decision D17).
The bit patterns are the spec's general knowledge (decision D35, notes/assumptions/11.md). -/
def Obligations.BcdStoresThreeDigits : Prop :=
  ∀ (x : Nibble) (s : State), decode (0xF#4 ++ x ++ 0x33#8) = .ldB x ∧
    (s.i.toNat + 2 ≤ 0xFFF → ∃ t, exec (.ldB x) s = .next t ∧
      (t.mem.read s.i.toNat).toNat = (s.readV x).toNat / 100 ∧
      (t.mem.read (s.i.toNat + 1)).toNat = (s.readV x).toNat / 10 % 10 ∧
      (t.mem.read (s.i.toNat + 2)).toNat = (s.readV x).toNat % 10 ∧
      (∀ a, (a < s.i.toNat ∨ s.i.toNat + 2 < a) → t.mem.read a = s.mem.read a) ∧
      t.pc = s.pc + 2 ∧ Unchanged [] [.memory] s t) ∧
    (s.i.toNat + 2 > 0xFFF → ∃ t, exec (.ldB x) s = .next t ∧ Faulted .addressFault (some (0xF#4 ++ x ++ 0x33#8)) s t)

/-- R174 for LD [I], Vx: V0..Vx to memory at I, I unchanged; with I + x > 0xFFF AddressFault, and nothing is written.
The bit patterns are the spec's general knowledge (decision D35, notes/assumptions/11.md). -/
def Obligations.StoreRegistersToMemory : Prop :=
  ∀ (x : Nibble) (s : State), decode (0xF#4 ++ x ++ 0x55#8) = .ldMemVx x ∧
    (s.i.toNat + x.toNat ≤ 0xFFF → ∃ t, exec (.ldMemVx x) s = .next t ∧
      (∀ k : Nibble, k.toNat ≤ x.toNat → t.mem.read (s.i.toNat + k.toNat) = s.readV k) ∧
      (∀ a, (a < s.i.toNat ∨ s.i.toNat + x.toNat < a) → t.mem.read a = s.mem.read a) ∧
      t.pc = s.pc + 2 ∧ Unchanged [] [.memory] s t) ∧
    (s.i.toNat + x.toNat > 0xFFF →
      ∃ t, exec (.ldMemVx x) s = .next t ∧ Faulted .addressFault (some (0xF#4 ++ x ++ 0x55#8)) s t)

/-- R175 for LD Vx, [I]: V0..Vx from memory at I, I unchanged; with I + x > 0xFFF AddressFault, and no register is written.
The bit patterns are the spec's general knowledge (decision D35, notes/assumptions/11.md). -/
def Obligations.LoadRegistersFromMemory : Prop :=
  ∀ (x : Nibble) (s : State), decode (0xF#4 ++ x ++ 0x65#8) = .ldVxMem x ∧
    (s.i.toNat + x.toNat ≤ 0xFFF → ∃ t, exec (.ldVxMem x) s = .next t ∧
      (∀ k : Nibble, k.toNat ≤ x.toNat → t.readV k = s.mem.read (s.i.toNat + k.toNat)) ∧
      (∀ k : Nibble, x.toNat < k.toNat → t.readV k = s.readV k) ∧ t.pc = s.pc + 2 ∧ Frame [] s t) ∧
    (s.i.toNat + x.toNat > 0xFFF →
      ∃ t, exec (.ldVxMem x) s = .next t ∧ Faulted .addressFault (some (0xF#4 ++ x ++ 0x65#8)) s t)

/-- A byte stored by LD [I], Vx is seen by the very next fetch, with no fence: two bytes stored just past the instruction are the next word
(20_memory.md R66, R81; derived). -/
def Obligations.StoredBytesAreFetchedNext : Prop :=
  ∀ (x : Nibble) (s t : State), 1 ≤ x.toNat → s.i = s.pc + 2 → s.i.toNat + x.toNat ≤ 0xFFF →
    fetchCheck s.cfg.fetchCheck (s.pc + 2) = true → exec (.ldMemVx x) s = .next t →
    ∃ w, fetch t = some w ∧ w.toNat = 256 * (s.readV 0).toNat + (s.readV 1).toNat

/-! ## Display -/

/-- R191 for CLS: every pixel 0, VF unchanged, and the display-updated output asserted. -/
def Obligations.ClearScreenBlanksTheDisplay : Prop :=
  decode 0x00E0 = .cls ∧
  (∀ s : State, ∃ t, exec .cls s = .next t ∧ (∀ px py, t.disp.get px py = false) ∧ t.pc = s.pc + 2 ∧ Unchanged [] [.display] s t) ∧
  (∀ s : State, s.halted = false → fetch s = some 0x00E0 → dispUpdated s = true)

/-- DRW Vx, Vy, n completes unless it must read past 0xFFF, changes the display and VF alone, and with n = 0 draws nothing and clears VF;
otherwise it raises AddressFault (43_display.md R192; n = 0 is decision D14, the range check D17). -/
def Obligations.DrawCompletesOrFaults : Prop :=
  ∀ (x y n : Nibble) (s : State), decode (0xD#4 ++ x ++ y ++ n) = .drw x y n ∧
    (n = 0 ∨ s.i.toNat + n.toNat ≤ 0x1000 →
      ∃ t, exec (.drw x y n) s = .next t ∧ (t.readV 0xF = 0 ∨ t.readV 0xF = 1) ∧ t.pc = s.pc + 2 ∧
        Unchanged [0xF] [.display] s t ∧
        (n = 0 → t.readV 0xF = 0 ∧ ∀ px py, t.disp.get px py = s.disp.get px py)) ∧
    (n ≠ 0 → s.i.toNat + n.toNat > 0x1000 →
      ∃ t, exec (.drw x y n) s = .next t ∧ Faulted .addressFault (some (0xD#4 ++ x ++ y ++ n)) s t)

/-- What DRW draws, clipped or wrapped: exactly the pixels the sprite covers are inverted, and VF is 1 exactly when one of them was on
(43_display.md R192-R197; the row origin mod 32 is 90_conflicts.md C3, notes/assumptions/19.md; the origin read before VF is decision
D15, the bit order D16, the wrap D37). -/
def Obligations.DrawInvertsTheCoveredPixels : Prop :=
  ∀ (x y n : Nibble) (s t : State), (n = 0 ∨ s.i.toNat + n.toNat ≤ 0x1000) → exec (.drw x y n) s = .next t →
    (∀ px py, DrawCovers x y n s px py → t.disp.get px py = !s.disp.get px py) ∧
    (∀ px py, ¬DrawCovers x y n s px py → t.disp.get px py = s.disp.get px py) ∧
    (t.readV 0xF = 1 ↔ ∃ px py, DrawCovers x y n s px py ∧ s.disp.get px py = true) ∧
    (t.readV 0xF = 0 ↔ ¬∃ px py, DrawCovers x y n s px py ∧ s.disp.get px py = true)

/-- Drawing the same sprite at the same place twice in a row restores the display, and the second draw reports VF = 1 exactly when the
first turned a pixel on (43_display.md R197; derived). -/
def Obligations.DrawTwiceRestores : Prop :=
  ∀ (x y n : Nibble) (s t : State), (n = 0 ∨ s.i.toNat + n.toNat ≤ 0x1000) → exec (.drw x y n) s = .next t →
    (t.readV x).toNat % 64 = (s.readV x).toNat % 64 → (t.readV y).toNat % 32 = (s.readV y).toNat % 32 →
    ∃ u, exec (.drw x y n) t = .next u ∧ (∀ px py, u.disp.get px py = s.disp.get px py) ∧
      (u.readV 0xF = 1 ↔ ∃ px py, s.disp.get px py = false ∧ t.disp.get px py = true)

/-- The display-updated output is asserted by exactly the cycles that complete CLS or DRW (43_display.md R198, decision D30; a DRW that
faults does not complete). -/
def Obligations.DisplayUpdatedByClsAndDrw : Prop :=
  ∀ s : State, dispUpdated s = true ↔
    s.halted = false ∧ ∃ w, fetch s = some w ∧
      (decode w = .cls ∨ ∃ x y n, decode w = .drw x y n ∧ (n = 0 ∨ s.i.toNat + n.toNat ≤ 0x1000))

/-! ## Keys and timers -/

/-- R211 and R212 for SKP Vx and SKNP Vx with Vx naming a key, 0..15: the sampled key decides the skip and is not consumed.
The bit patterns are the spec's general knowledge (decision D35, notes/assumptions/11.md). -/
def Obligations.KeySkipsSampleTheKey : Prop :=
  ∀ (x k : Nibble) (s : State), (s.readV x).toNat = k.toNat →
    decode (0xE#4 ++ x ++ 0x9E#8) = .skp x ∧ decode (0xE#4 ++ x ++ 0xA1#8) = .sknp x ∧
    (∃ t, exec (.skp x) s = .next t ∧ t.pc = (if s.readKey k = true then s.pc + 4 else s.pc + 2) ∧ Unchanged [] [] s t) ∧
    (∃ t, exec (.sknp x) s = .next t ∧ t.pc = (if s.readKey k = false then s.pc + 4 else s.pc + 2) ∧ Unchanged [] [] s t)

/-- SKP Vx and SKNP Vx with Vx above 15: the low nibble names the key under `low_nibble`, and both raise AddressFault under `fault`
(44_timers_keys.md R210, decision D6).
The bit patterns are the spec's general knowledge (decision D35, notes/assumptions/11.md). -/
def Obligations.KeySkipsAboveFifteen : Prop :=
  ∀ (x k : Nibble) (s : State), (s.readV x).toNat > 15 →
    (s.cfg.keyIndexMode = .lowNibble → k.toNat = (s.readV x).toNat % 16 →
      (∃ t, exec (.skp x) s = .next t ∧ t.pc = (if s.readKey k = true then s.pc + 4 else s.pc + 2) ∧ Unchanged [] [] s t) ∧
      (∃ t, exec (.sknp x) s = .next t ∧ t.pc = (if s.readKey k = false then s.pc + 4 else s.pc + 2) ∧ Unchanged [] [] s t)) ∧
    (s.cfg.keyIndexMode = .fault →
      (∃ t, exec (.skp x) s = .next t ∧ Faulted .addressFault (some (0xE#4 ++ x ++ 0x9E#8)) s t) ∧
      (∃ t, exec (.sknp x) s = .next t ∧ Faulted .addressFault (some (0xE#4 ++ x ++ 0xA1#8)) s t))

/-- LD Vx, K stores the lowest pressed key and goes on; with no key pressed it stays on the instruction and changes nothing
(44_timers_keys.md R214, decision D7).
The bit patterns are the spec's general knowledge (decision D35, notes/assumptions/11.md). -/
def Obligations.KeyWaitStoresTheLowestKey : Prop :=
  ∀ (x : Nibble) (s : State), decode (0xF#4 ++ x ++ 0x0A#8) = .ldVxK x ∧
    (∀ k : Nibble, s.readKey k = true → (∀ j : Nibble, j.toNat < k.toNat → s.readKey j = false) →
      ∃ t, exec (.ldVxK x) s = .next t ∧ (t.readV x).toNat = k.toNat ∧ t.pc = s.pc + 2 ∧ Unchanged [x] [] s t) ∧
    ((∀ k, s.readKey k = false) → ∃ t, exec (.ldVxK x) s = .next t ∧ t.pc = s.pc ∧ Unchanged [] [] s t)

/-- R213, R215 and R216: LD Vx, DT reads the delay timer, LD DT, Vx and LD ST, Vx set the timers, and `sound_on` is ST ≠ 0.
The bit patterns are the spec's general knowledge (decision D35, notes/assumptions/11.md). -/
def Obligations.TimerTransfers : Prop :=
  ∀ (x : Nibble) (s : State),
    decode (0xF#4 ++ x ++ 0x07#8) = .ldVxDt x ∧ decode (0xF#4 ++ x ++ 0x15#8) = .ldDtVx x ∧
    decode (0xF#4 ++ x ++ 0x18#8) = .ldStVx x ∧
    (∃ t, exec (.ldVxDt x) s = .next t ∧ t.readV x = s.dt ∧ t.pc = s.pc + 2 ∧ Unchanged [x] [] s t) ∧
    (∃ t, exec (.ldDtVx x) s = .next t ∧ t.dt = s.readV x ∧ t.pc = s.pc + 2 ∧ Unchanged [] [.delay] s t) ∧
    (∃ t, exec (.ldStVx x) s = .next t ∧ t.st = s.readV x ∧ (soundOn t = true ↔ s.readV x ≠ 0) ∧ t.pc = s.pc + 2 ∧
      Unchanged [] [.sound] s t)

/-- Ticks: n of them, in n steps, lower each timer by n floored at 0 and change nothing else, whether or not the core is halted
(60_exceptions.md R244, R245; that one tick lowers both, and that a halted core's timers run, is decision D20; the schedule is the model's,
notes/assumptions/2.md). -/
def Obligations.TicksCountDown : Prop :=
  ∀ (n : Nat) (s : State) (rest : List HostEvent), s.schedule = List.replicate n .tick ++ rest →
    ∃ t, Host.Core.run Sys2Proof.core n s = .next t ∧ t.dt.toNat = s.dt.toNat - n ∧ t.st.toNat = s.st.toNat - n ∧
      t.schedule = rest ∧ t.pc = s.pc ∧ Unchanged [] [.delay, .sound, .schedule] s t

/-- LD DT, Vx, n ticks, then LD Vy, DT reads the value written less n, floored at 0 (70_reset_and_hazards.md R274; derived). -/
def Obligations.TimerReadsBackAfterTicks : Prop :=
  ∀ (x y : Nibble) (n : Nat) (s t : State), exec (.ldDtVx x) s = .next t →
    ∃ u, exec (.ldVxDt y) (State.tick^[n] t) = .next u ∧ (u.readV y).toNat = (s.readV x).toNat - n

/-- The key source writes one entry of the keypad and nothing else (20_memory.md R74, R75, 10_state.md R43; the schedule that orders it is
the model's, notes/assumptions/2.md). -/
def Obligations.KeySourceWritesOneKey : Prop :=
  ∀ (s : State) (k : Nibble) (p : Bool) (rest : List HostEvent), s.schedule = .key k p :: rest →
    ∃ t, step s = .next t ∧ t.readKey k = p ∧ (∀ j, j ≠ k → t.readKey j = s.readKey j) ∧ t.schedule = rest ∧ t.pc = s.pc ∧
      Unchanged [] [.keypad, .schedule] s t

/-! ## Reset -/

/-- A reset with an 80-byte font and a ROM of at most 3584 bytes leaves the table of 10_state.md R49: every byte of memory, every register,
the stack, timers, display, keypad and latch (R260, R83, R84; the keypad, I, SP and latch values are decisions D1, D24, D36). It may come in any
state, halted or not; that the parameters and the environment stay is the model's reading, notes/assumptions/23.md. -/
def Obligations.ResetLeavesTheTable : Prop :=
  ∀ (s : State) (font rom : List Byte) (rest : List HostEvent), s.schedule = .reset font rom :: rest →
    font.length = 80 → rom.length ≤ 3584 →
    ∃ t, step s = .next t ∧
      (∀ a, a ≤ 0xFFF → (t.mem.read a = if 0x050 ≤ a ∧ a < 0x0A0 then font.getD (a - 0x050) 0
        else if 0x200 ≤ a ∧ a < 0x200 + rom.length then rom.getD (a - 0x200) 0 else 0)) ∧
      (∀ r, t.readV r = 0) ∧ t.i = 0 ∧ t.pc = 0x200 ∧ t.sp.val = 0 ∧ (∀ j, t.stackEntry j = 0) ∧ t.dt = 0 ∧ t.st = 0 ∧
      (∀ px py, t.disp.get px py = false) ∧ (∀ k, t.readKey k = false) ∧ t.fault.code = 0 ∧ t.fault.pc = 0 ∧
      t.fault.word = 0 ∧ t.fault.wordValid = false ∧ t.halted = false ∧ t.cfg = s.cfg ∧ t.schedule = rest ∧
      t.randIn = s.randIn ∧ t.draws = s.draws

/-- A launch the spec does not describe is refused: a font that is not 80 bytes, or a ROM longer than 3584 (20_memory.md R83, decisions D25,
D38; notes/assumptions/10.md). -/
def Obligations.UndescribedLaunchIsRefused : Prop :=
  ∀ (s : State) (font rom : List Byte) (rest : List HostEvent), s.schedule = .reset font rom :: rest →
    font.length ≠ 80 ∨ rom.length > 3584 → step s = .refused .launchNotDescribed

/-- Only a reset leaves the halted state, and until then the latch keeps the first fault (60_exceptions.md R238, R239,
70_reset_and_hazards.md R264; decision D1). -/
def Obligations.OnlyResetLeavesHalt : Prop :=
  ∀ s t : State, s.halted = true → step s = .next t →
    (t.halted = true ∧ t.fault = s.fault) ∨ (∃ font rom rest, s.schedule = .reset font rom :: rest)

/-! ## The whole machine -/

/-- Every step keeps memory in its canonical form and the halt bit in agreement with the latch (notes/assumptions/7.md; R45, R46, R237). -/
def Obligations.StepKeepsTheInvariant : Prop :=
  ∀ s t : State, s.Inv → step s = .next t → t.Inv

/-- Every step keeps the bounds of the PC and of the return addresses (40_control_flow.md R115; derived). -/
def Obligations.StepKeepsThePcBounds : Prop :=
  ∀ s t : State, s.pcBounded → step s = .next t → t.pcBounded

/-- Both invariants hold right after reset. -/
def Obligations.InvariantsHoldAtReset : Prop :=
  State.reset.Inv ∧ State.reset.pcBounded

/-- In canonical form, memories that read alike at every address are the same list (notes/assumptions/7.md). -/
def Obligations.CanonicalMemoriesAreExtensional : Prop :=
  ∀ m m' : Memory, m.wf = true → m'.wf = true → (∀ a, m.read a = m'.read a) → m = m'

/-- What each instruction may change, over all instructions: I only by LD I, ADD I and LD F (R35); memory only by LD B and LD [I] (R63);
the stack only by CALL and RET (R36); DT and ST only by their own loads (R40, R41); the display only by CLS and DRW (R42); the keypad, the
schedule and the parameters by none (R43); the random port only by RND. -/
def Obligations.InstructionsWriteOnlyTheirOwnState : Prop :=
  ∀ (i : Instr) (s t : State), exec i s = .next t →
    (t.i ≠ s.i → (∃ nnn, i = .ldI nnn) ∨ ∃ x, i = .addI x ∨ i = .ldF x) ∧
    (t.mem ≠ s.mem → ∃ x, i = .ldB x ∨ i = .ldMemVx x) ∧
    ((t.sp ≠ s.sp ∨ t.stack ≠ s.stack) → i = .ret ∨ ∃ nnn, i = .call nnn) ∧
    (t.dt ≠ s.dt → ∃ x, i = .ldDtVx x) ∧ (t.st ≠ s.st → ∃ x, i = .ldStVx x) ∧
    (t.disp ≠ s.disp → i = .cls ∨ ∃ x y n, i = .drw x y n) ∧
    t.key = s.key ∧ t.schedule = s.schedule ∧ t.cfg = s.cfg ∧
    ((t.randIn ≠ s.randIn ∨ t.draws ≠ s.draws) → ∃ x kk, i = .rnd x kk)

/-- Which general registers each instruction may write: the table of 10_state.md R32. In particular VF is written only as the destination
or by the six flag instructions (R33, R269). -/
def Obligations.InstructionsWriteOnlyTheirRegisters : Prop :=
  ∀ (i : Instr) (s t : State) (r : Nibble), exec i s = .next t → t.readV r ≠ s.readV r → WritesRegister i r

/-- R63: the fetch reads its two bytes of memory, DRW and LD Vx, [I] read and LD B and LD [I], Vx write their own bytes, and no other
instruction reaches memory. (A reset writes memory too, 20_memory.md R74, and is no instruction.) Two states that differ in memory
alone, and agree on the bytes the instruction reads, go to states that differ in memory alone; bytes the instruction does not write
keep their value, and bytes it writes come out the same. -/
def Obligations.MemoryIsReachedOnlyByTheFive : Prop :=
  (∀ (s : State) (m : Memory), m.read s.pc.toNat = s.mem.read s.pc.toNat → m.read (s.pc.toNat + 1) = s.mem.read (s.pc.toNat + 1) →
    fetch (s.setMem m) = fetch s) ∧
  (∀ (i : Instr) (s : State) (m : Memory), (∀ a, ReadsAddress i s a → m.read a = s.mem.read a) →
    ∃ t u, exec i s = .next t ∧ exec i (s.setMem m) = .next u ∧ u.setMem t.mem = t ∧
      (∀ a, ¬WritesAddress i s a → t.mem.read a = s.mem.read a ∧ u.mem.read a = m.read a) ∧
      (∀ a, WritesAddress i s a → (t.mem = s.mem ∧ u.mem = m) ∨ u.mem.read a = t.mem.read a))

/-- No step changes the launch parameters (00_scope.md R14-R18; notes/assumptions/1.md). -/
def Obligations.ParametersNeverChange : Prop :=
  ∀ s t : State, step s = .next t → t.cfg = s.cfg

/-- A state at rest stays at rest under every step but a reset; on a self-jump only the timers, the keypad and the schedule can change
(70_reset_and_hazards.md R273, decision D29; derived). -/
def Obligations.RestIsForever : Prop :=
  ∀ s t : State, s.atRest = true → step s = .next t → (∀ font rom rest, s.schedule ≠ .reset font rom :: rest) →
    t.atRest = true ∧ t.pc = s.pc ∧ Unchanged [] [.delay, .sound, .keypad, .schedule] s t
end

