-- ==== Sys2Proof/Laws/Decode.lean ====
section
/-! SUPPORT. What the decoder reads from each format's word: the fields of a packed word, and one lemma per row of the opcode map
(30_encoding.md R91, R92, R106). -/

namespace Sys2Proof

/-! ## Words and fields as numbers -/

theorem wordA_toNat (op : Nibble) (nnn : Imm12) : (wordA op nnn).toNat = op.toNat * 4096 + nnn.toNat := by
  have h := BitVec.toNat_append op nnn
  rw [← Nat.shiftLeft_add_eq_or_of_lt nnn.isLt, Nat.shiftLeft_eq] at h
  exact h

theorem wordXK_toNat (op x : Nibble) (kk : Byte) :
    (wordXK op x kk).toNat = op.toNat * 4096 + x.toNat * 256 + kk.toNat := by
  have h := BitVec.toNat_append op x
  have h' := BitVec.toNat_append (op ++ x) kk
  rw [← Nat.shiftLeft_add_eq_or_of_lt x.isLt, Nat.shiftLeft_eq] at h
  rw [← Nat.shiftLeft_add_eq_or_of_lt kk.isLt, Nat.shiftLeft_eq, h] at h'
  refine Eq.trans h' ?_
  omega

theorem wordXYN_toNat (op x y n : Nibble) :
    (wordXYN op x y n).toNat = op.toNat * 4096 + x.toNat * 256 + y.toNat * 16 + n.toNat := by
  have h := BitVec.toNat_append op x
  have h' := BitVec.toNat_append (op ++ x) y
  have h'' := BitVec.toNat_append (op ++ x ++ y) n
  rw [← Nat.shiftLeft_add_eq_or_of_lt x.isLt, Nat.shiftLeft_eq] at h
  rw [← Nat.shiftLeft_add_eq_or_of_lt y.isLt, Nat.shiftLeft_eq, h] at h'
  rw [← Nat.shiftLeft_add_eq_or_of_lt n.isLt, Nat.shiftLeft_eq, h'] at h''
  have : (wordXYN op x y n).toNat = _ := h''
  omega

/-- The bits of a format-A word. -/
theorem wordA_getLsbD (op : Nibble) (nnn : Imm12) (k : Nat) :
    (wordA op nnn).getLsbD k = if k < 12 then nnn.getLsbD k else op.getLsbD (k - 12) := by
  have h : (op ++ nnn).getLsbD k = _ := BitVec.getLsbD_append
  exact h.trans (by simp)

/-- The bits of a format-XK word. -/
theorem wordXK_getLsbD (op x : Nibble) (kk : Byte) (k : Nat) :
    (wordXK op x kk).getLsbD k =
      if k < 8 then kk.getLsbD k else if k < 12 then x.getLsbD (k - 8) else op.getLsbD (k - 12) := by
  have h : (op ++ x ++ kk).getLsbD k = _ := BitVec.getLsbD_append
  refine Eq.trans h ?_
  rw [BitVec.getLsbD_append]
  by_cases h8 : k < 8
  · simp [h8]
  · by_cases h12 : k < 12
    · simp [h8, h12, show k - 8 < 4 by omega]
    · simp [h8, h12, show ¬(k - 8 < 4) by omega, show k - 8 - 4 = k - 12 by omega]

/-- A format-XYN word is the format-XK word of its low byte. -/
theorem wordXYN_eq_wordXK (op x y n : Nibble) : wordXYN op x y n = wordXK op x (y ++ n) := by
  have h := BitVec.toNat_append y n
  rw [← Nat.shiftLeft_add_eq_or_of_lt n.isLt, Nat.shiftLeft_eq] at h
  apply BitVec.eq_of_toNat_eq
  rw [wordXYN_toNat, wordXK_toNat, h]
  omega

/-- The bits of a format-XYN word. -/
theorem wordXYN_getLsbD (op x y n : Nibble) (k : Nat) :
    (wordXYN op x y n).getLsbD k =
      if k < 4 then n.getLsbD k else if k < 8 then y.getLsbD (k - 4) else if k < 12 then x.getLsbD (k - 8)
      else op.getLsbD (k - 12) := by
  have h : (y ++ n).getLsbD k = _ := BitVec.getLsbD_append
  rw [wordXYN_eq_wordXK, wordXK_getLsbD]
  by_cases h4 : k < 4
  · rw [if_pos (by omega), if_pos h4]
    exact h.trans (by simp [h4])
  · by_cases h8 : k < 8
    · rw [if_pos h8, if_neg h4, if_pos h8]
      exact h.trans (by simp [h4])
    · simp [h4, h8]

theorem opField_toNat (w : Word) : (opField w).toNat = w.toNat / 4096 := by
  simp [opField, Nat.shiftRight_eq_div_pow]; omega

theorem xField_toNat (w : Word) : (xField w).toNat = w.toNat / 256 % 16 := by
  simp [xField, Nat.shiftRight_eq_div_pow]

theorem yField_toNat (w : Word) : (yField w).toNat = w.toNat / 16 % 16 := by
  simp [yField, Nat.shiftRight_eq_div_pow]

theorem nField_toNat (w : Word) : (nField w).toNat = w.toNat % 16 := by simp [nField]

theorem kkField_toNat (w : Word) : (kkField w).toNat = w.toNat % 256 := by simp [kkField]

theorem nnnField_toNat (w : Word) : (nnnField w).toNat = w.toNat % 4096 := by simp [nnnField]

/-- A word is its two bytes, the high one first (20_memory.md R66). -/
theorem wordOfBytes_toNat (hi lo : Byte) : (wordOfBytes hi lo).toNat = hi.toNat * 256 + lo.toNat := by
  have h := BitVec.toNat_append hi lo
  rw [← Nat.shiftLeft_add_eq_or_of_lt lo.isLt, Nat.shiftLeft_eq] at h
  exact h

@[simp] theorem wordOfBytes_highByte_lowByte (w : Word) : wordOfBytes (highByte w) (lowByte w) = w := by
  apply BitVec.eq_of_toNat_eq
  rw [wordOfBytes_toNat]
  simp [highByte, lowByte, Nat.shiftRight_eq_div_pow]
  omega

/-! ## The fields of a packed word -/

@[simp] theorem opField_wordA (op : Nibble) (nnn : Imm12) : opField (wordA op nnn) = op := by
  apply BitVec.eq_of_toNat_eq; rw [opField_toNat, wordA_toNat]; bv_omega
@[simp] theorem nnnField_wordA (op : Nibble) (nnn : Imm12) : nnnField (wordA op nnn) = nnn := by
  apply BitVec.eq_of_toNat_eq; rw [nnnField_toNat, wordA_toNat]; bv_omega
@[simp] theorem opField_wordXK (op x : Nibble) (kk : Byte) : opField (wordXK op x kk) = op := by
  apply BitVec.eq_of_toNat_eq; rw [opField_toNat, wordXK_toNat]; bv_omega
@[simp] theorem xField_wordXK (op x : Nibble) (kk : Byte) : xField (wordXK op x kk) = x := by
  apply BitVec.eq_of_toNat_eq; rw [xField_toNat, wordXK_toNat]; bv_omega
@[simp] theorem kkField_wordXK (op x : Nibble) (kk : Byte) : kkField (wordXK op x kk) = kk := by
  apply BitVec.eq_of_toNat_eq; rw [kkField_toNat, wordXK_toNat]; bv_omega
@[simp] theorem opField_wordXYN (op x y n : Nibble) : opField (wordXYN op x y n) = op := by
  apply BitVec.eq_of_toNat_eq; rw [opField_toNat, wordXYN_toNat]; bv_omega
@[simp] theorem xField_wordXYN (op x y n : Nibble) : xField (wordXYN op x y n) = x := by
  apply BitVec.eq_of_toNat_eq; rw [xField_toNat, wordXYN_toNat]; bv_omega
@[simp] theorem yField_wordXYN (op x y n : Nibble) : yField (wordXYN op x y n) = y := by
  apply BitVec.eq_of_toNat_eq; rw [yField_toNat, wordXYN_toNat]; bv_omega
@[simp] theorem nField_wordXYN (op x y n : Nibble) : nField (wordXYN op x y n) = n := by
  apply BitVec.eq_of_toNat_eq; rw [nField_toNat, wordXYN_toNat]; bv_omega

/-! ## One lemma per row of the opcode map (R106) -/

theorem decode_cls : decode 0x00E0#16 = .cls := by decide
theorem decode_ret : decode 0x00EE#16 = .ret := by decide
theorem decode_jp (nnn : Imm12) : decode (wordA 0x1 nnn) = .jp nnn := by simp [decode]
theorem decode_call (nnn : Imm12) : decode (wordA 0x2 nnn) = .call nnn := by simp [decode]
theorem decode_seImm (x : Nibble) (kk : Byte) : decode (wordXK 0x3 x kk) = .seImm x kk := by simp [decode]
theorem decode_sneImm (x : Nibble) (kk : Byte) : decode (wordXK 0x4 x kk) = .sneImm x kk := by simp [decode]
theorem decode_seReg (x y : Nibble) : decode (wordXYN 0x5 x y 0x0) = .seReg x y := by simp [decode]
theorem decode_ldImm (x : Nibble) (kk : Byte) : decode (wordXK 0x6 x kk) = .ldImm x kk := by simp [decode]
theorem decode_addImm (x : Nibble) (kk : Byte) : decode (wordXK 0x7 x kk) = .addImm x kk := by simp [decode]
theorem decode_ldReg (x y : Nibble) : decode (wordXYN 0x8 x y 0x0) = .ldReg x y := by simp [decode, decodeFamily8]
theorem decode_orReg (x y : Nibble) : decode (wordXYN 0x8 x y 0x1) = .orReg x y := by simp [decode, decodeFamily8]
theorem decode_andReg (x y : Nibble) : decode (wordXYN 0x8 x y 0x2) = .andReg x y := by simp [decode, decodeFamily8]
theorem decode_xorReg (x y : Nibble) : decode (wordXYN 0x8 x y 0x3) = .xorReg x y := by simp [decode, decodeFamily8]
theorem decode_addReg (x y : Nibble) : decode (wordXYN 0x8 x y 0x4) = .addReg x y := by simp [decode, decodeFamily8]
theorem decode_sub (x y : Nibble) : decode (wordXYN 0x8 x y 0x5) = .sub x y := by simp [decode, decodeFamily8]
theorem decode_shr (x y : Nibble) : decode (wordXYN 0x8 x y 0x6) = .shr x y := by simp [decode, decodeFamily8]
theorem decode_subn (x y : Nibble) : decode (wordXYN 0x8 x y 0x7) = .subn x y := by simp [decode, decodeFamily8]
theorem decode_shl (x y : Nibble) : decode (wordXYN 0x8 x y 0xE) = .shl x y := by simp [decode, decodeFamily8]
theorem decode_sneReg (x y : Nibble) : decode (wordXYN 0x9 x y 0x0) = .sneReg x y := by simp [decode]
theorem decode_ldI (nnn : Imm12) : decode (wordA 0xA nnn) = .ldI nnn := by simp [decode]
theorem decode_jpV0 (nnn : Imm12) : decode (wordA 0xB nnn) = .jpV0 nnn := by simp [decode]
theorem decode_rnd (x : Nibble) (kk : Byte) : decode (wordXK 0xC x kk) = .rnd x kk := by simp [decode]
theorem decode_drw (x y n : Nibble) : decode (wordXYN 0xD x y n) = .drw x y n := by simp [decode]
theorem decode_skp (x : Nibble) : decode (wordXK 0xE x 0x9E) = .skp x := by simp [decode, decodeFamilyE]
theorem decode_sknp (x : Nibble) : decode (wordXK 0xE x 0xA1) = .sknp x := by simp [decode, decodeFamilyE]
theorem decode_ldVxDt (x : Nibble) : decode (wordXK 0xF x 0x07) = .ldVxDt x := by simp [decode, decodeFamilyF]
theorem decode_ldVxK (x : Nibble) : decode (wordXK 0xF x 0x0A) = .ldVxK x := by simp [decode, decodeFamilyF]
theorem decode_ldDtVx (x : Nibble) : decode (wordXK 0xF x 0x15) = .ldDtVx x := by simp [decode, decodeFamilyF]
theorem decode_ldStVx (x : Nibble) : decode (wordXK 0xF x 0x18) = .ldStVx x := by simp [decode, decodeFamilyF]
theorem decode_addI (x : Nibble) : decode (wordXK 0xF x 0x1E) = .addI x := by simp [decode, decodeFamilyF]
theorem decode_ldF (x : Nibble) : decode (wordXK 0xF x 0x29) = .ldF x := by simp [decode, decodeFamilyF]
theorem decode_ldB (x : Nibble) : decode (wordXK 0xF x 0x33) = .ldB x := by simp [decode, decodeFamilyF]
theorem decode_ldMemVx (x : Nibble) : decode (wordXK 0xF x 0x55) = .ldMemVx x := by simp [decode, decodeFamilyF]
theorem decode_ldVxMem (x : Nibble) : decode (wordXK 0xF x 0x65) = .ldVxMem x := by simp [decode, decodeFamilyF]

theorem decode_sys {nnn : Imm12} (h : Instr.wellFormed (.sys nnn) = true) : decode (wordA 0x0#4 nnn) = .sys nnn := by
  simp only [Instr.wellFormed, Bool.and_eq_true, bne_iff_ne] at h
  have h1 : wordA 0x0#4 nnn ≠ 0x00E0#16 := fun e => h.1 (by
    apply BitVec.eq_of_toNat_eq; have := congrArg BitVec.toNat e; rw [wordA_toNat] at this; simpa using this)
  have h2 : wordA 0x0#4 nnn ≠ 0x00EE#16 := fun e => h.2 (by
    apply BitVec.eq_of_toNat_eq; have := congrArg BitVec.toNat e; rw [wordA_toNat] at this; simpa using this)
  simp [decode, decodeFamily0, h1, h2]

end Sys2Proof
end

