-- ==== Sys2Proof/Laws/Display.lean ====
section
/-! SUPPORT. The laws of the framebuffer and of the placing of a sprite pixel (10_state.md R42; 43_display.md R195, R196). -/

namespace Sys2Proof.Machine

/-- A pixel read after a pixel write. -/
theorem Display.get_put (d : Display) (px qx : Fin 64) (py qy : Fin 32) (b : Bool) :
    (d.put px py b).get qx qy = if qx = px ∧ qy = py then b else d.get qx qy := by
  unfold Display.put Display.get
  by_cases hy : qy = py
  · subst hy
    by_cases hx : qx = px
    · simp [hx]
    · have : px.val ≠ qx.val := fun e => hx (Fin.ext e).symm
      simp [hx, this]
  · have : py.val ≠ qy.val := fun e => hy (Fin.ext e).symm
    simp [hy, this]

@[simp] theorem Display.get_blank (px : Fin 64) (py : Fin 32) : Display.blank.get px py = false := by
  simp [Display.blank, Display.get]

/-- Displays whose pixels agree are equal. -/
theorem Display.ext {d e : Display} (h : ∀ px py, d.get px py = e.get px py) : d = e := by
  apply Vector.ext
  intro y hy
  apply Vector.ext
  intro x hx
  exact h ⟨x, hx⟩ ⟨y, hy⟩

/-- Where a pixel lands when sprites are clipped (R195). -/
theorem place_clip (cx cy : Nat) (px : Fin 64) (py : Fin 32) :
    place false cx cy = some (px, py) ↔ cx = px.val ∧ cy = py.val := by
  unfold place
  rw [if_neg (by simp)]
  constructor
  · intro h
    split at h
    · simp only [Option.some.injEq, Prod.mk.injEq, Fin.ext_iff] at h
      exact h
    · simp at h
  · rintro ⟨rfl, rfl⟩
    rw [dif_pos ⟨px.isLt, py.isLt⟩]

/-- Where a pixel lands when sprites wrap (R196). -/
theorem place_wrap (cx cy : Nat) (px : Fin 64) (py : Fin 32) :
    place true cx cy = some (px, py) ↔ cx % 64 = px.val ∧ cy % 32 = py.val := by
  simp [place, Fin.ext_iff]

/-- What one sprite bit does to the display: it inverts the pixel it lands on and no other (R192). -/
theorem blitPixel_get (wrap : Bool) (cx cy : Nat) (acc : Display × Bool) (px : Fin 64) (py : Fin 32) :
    (blitPixel wrap cx cy acc).1.get px py =
      (acc.1.get px py ^^ decide (place wrap cx cy = some (px, py))) := by
  unfold blitPixel
  split
  · next h => simp [h]
  · next qx qy h =>
    rw [h, Display.get_put]
    by_cases hq : px = qx ∧ py = qy
    · obtain ⟨rfl, rfl⟩ := hq
      simp
    · have : ¬(qx = px ∧ qy = py) := fun e => hq ⟨e.1.symm, e.2.symm⟩
      simp [hq, this]

/-- What one sprite bit does to the collision flag: it sets it exactly when the pixel it lands on was on (R197). -/
theorem blitPixel_collision (wrap : Bool) (cx cy : Nat) (acc : Display × Bool) :
    (blitPixel wrap cx cy acc).2 = true ↔
      acc.2 = true ∨ ∃ px py, place wrap cx cy = some (px, py) ∧ acc.1.get px py = true := by
  unfold blitPixel
  split
  · next h => simp [h]
  · next qx qy h => simp [h]

end Sys2Proof.Machine
end

