-- ==== Sys2Proof/Laws/Memory.lean ====
section
/-! SUPPORT. The laws of memory: a read after a write, and that every memory operation keeps the canonical form. -/

namespace Sys2Proof.Machine

theorem Memory.read_erase_same (m : Memory) (a : Nat) : (m.erase a).read a = Memory.unlisted a := by
  induction m with
  | nil => rfl
  | cons c rest ih =>
    obtain ⟨k, b⟩ := c
    by_cases h : k = a
    · simpa [Memory.erase, h] using ih
    · simpa [Memory.erase, Memory.read, h] using ih

theorem Memory.read_erase_other (m : Memory) {a a' : Nat} (h : a' ≠ a) : (m.erase a).read a' = m.read a' := by
  induction m with
  | nil => rfl
  | cons c rest ih =>
    obtain ⟨k, b⟩ := c
    unfold Memory.erase at ih
    by_cases hk : k = a
    · simp [Memory.erase, Memory.read, hk, Ne.symm h, ih]
    · simp [Memory.erase, Memory.read, hk, ih]

theorem Memory.read_insert_other (m : Memory) (b : Byte) {a a' : Nat} (h : a' ≠ a) : (m.insert a b).read a' = m.read a' := by
  induction m with
  | nil => simp [Memory.insert, Memory.read, Ne.symm h]
  | cons c rest ih =>
    obtain ⟨k, d⟩ := c
    unfold Memory.insert
    split
    · simp [Memory.read, Ne.symm h]
    · simp [Memory.read, ih]

theorem Memory.read_insert_same (m : Memory) (a : Nat) (b : Byte) (h : ∀ c ∈ m, c.1 ≠ a) : (m.insert a b).read a = b := by
  induction m with
  | nil => simp [Memory.insert, Memory.read]
  | cons c rest ih =>
    obtain ⟨k, d⟩ := c
    have hk : k ≠ a := h (k, d) (by simp)
    unfold Memory.insert
    split
    · simp [Memory.read]
    · simpa [Memory.read, hk] using ih fun c hc => h c (by simp [hc])

/-- A read after a write to the same address gives the byte written (20_memory.md R65). -/
@[simp] theorem Memory.read_write_same (m : Memory) (a : Nat) (b : Byte) : (m.write a b).read a = b := by
  unfold Memory.write
  split
  · next h => rw [Memory.read_erase_same, h]
  · exact Memory.read_insert_same _ _ _ fun c hc => by simpa using (List.mem_filter.1 hc).2

/-- A write leaves every other address alone (R65). -/
theorem Memory.read_write_other (m : Memory) (b : Byte) {a a' : Nat} (h : a' ≠ a) : (m.write a b).read a' = m.read a' := by
  unfold Memory.write
  split
  · exact Memory.read_erase_other m h
  · rw [Memory.read_insert_other _ _ h, Memory.read_erase_other m h]

/-- Consecutive writes leave every address outside them alone. -/
theorem Memory.read_writeBytes_outside (m : Memory) (a : Nat) (bs : List Byte) {a' : Nat} (h : a' < a ∨ a + bs.length ≤ a') :
    (m.writeBytes a bs).read a' = m.read a' := by
  induction bs generalizing m a with
  | nil => rfl
  | cons b bs ih =>
    simp only [List.length_cons] at h
    rw [Memory.writeBytes, ih _ _ (by omega), Memory.read_write_other _ _ (by omega)]

/-- The k-th byte of consecutive writes stands at the k-th address. -/
theorem Memory.read_writeBytes_inside (m : Memory) (a : Nat) (bs : List Byte) {k : Nat} (h : k < bs.length) :
    (m.writeBytes a bs).read (a + k) = bs[k] := by
  induction bs generalizing m a k with
  | nil => simp at h
  | cons b bs ih =>
    cases k with
    | zero => rw [Memory.writeBytes, Memory.read_writeBytes_outside _ _ _ (by omega)]; simp
    | succ k =>
      have := ih (m.write a b) (a + 1) (k := k) (by simpa using h)
      rw [Memory.writeBytes, show a + (k + 1) = a + 1 + k by omega, this]; simp

@[simp] theorem Memory.readBytes_length (m : Memory) (a n : Nat) : (m.readBytes a n).length = n := by simp [Memory.readBytes]

theorem Memory.readBytes_getElem (m : Memory) (a n k : Nat) (h : k < (m.readBytes a n).length) :
    (m.readBytes a n)[k] = m.read (a + k) := by simp [Memory.readBytes]

/-! ## The canonical form -/

theorem Memory.wfFrom_mono {lo lo' : Nat} {m : Memory} (h : lo' ≤ lo) (hm : Memory.wfFrom lo m = true) :
    Memory.wfFrom lo' m = true := by
  cases m with
  | nil => rfl
  | cons c rest =>
    obtain ⟨k, b⟩ := c
    simp only [Memory.wfFrom, Bool.and_eq_true, decide_eq_true_eq] at hm ⊢
    exact ⟨⟨⟨by omega, hm.1.1.2⟩, hm.1.2⟩, hm.2⟩

theorem Memory.wfFrom_erase {lo : Nat} {m : Memory} (a : Nat) (hm : Memory.wfFrom lo m = true) :
    Memory.wfFrom lo (m.erase a) = true := by
  induction m generalizing lo with
  | nil => rfl
  | cons c rest ih =>
    obtain ⟨k, b⟩ := c
    simp only [Memory.wfFrom, Bool.and_eq_true, decide_eq_true_eq] at hm
    have hr := ih hm.2
    by_cases hk : k = a
    · simpa [Memory.erase, hk] using Memory.wfFrom_mono (by omega) hr
    · have he : Memory.erase ((k, b) :: rest) a = (k, b) :: Memory.erase rest a := by simp [Memory.erase, hk]
      rw [he, Memory.wfFrom]
      simp only [Bool.and_eq_true, decide_eq_true_eq]
      exact ⟨hm.1, hr⟩

theorem Memory.wfFrom_insert {lo : Nat} {m : Memory} {a : Nat} {b : Byte} (hlo : lo ≤ a) (ha : a ≤ 0xFFF)
    (hb : b ≠ Memory.unlisted a) (hne : ∀ c ∈ m, c.1 ≠ a) (hm : Memory.wfFrom lo m = true) :
    Memory.wfFrom lo (m.insert a b) = true := by
  induction m generalizing lo with
  | nil => simp [Memory.insert, Memory.wfFrom, hlo, ha, hb]
  | cons c rest ih =>
    obtain ⟨k, d⟩ := c
    have hk : k ≠ a := hne (k, d) (by simp)
    have hm' := hm
    simp only [Memory.wfFrom, Bool.and_eq_true, decide_eq_true_eq] at hm'
    unfold Memory.insert
    split
    · simp only [Memory.wfFrom, Bool.and_eq_true, decide_eq_true_eq, bne_iff_ne]
      exact ⟨⟨⟨hlo, ha⟩, hb⟩, ⟨⟨⟨by omega, hm'.1.1.2⟩, by simpa using hm'.1.2⟩, hm'.2⟩⟩
    · rw [Memory.wfFrom]
      simp only [Bool.and_eq_true, decide_eq_true_eq]
      exact ⟨hm'.1, ih (by omega) (fun c hc => hne c (by simp [hc])) hm'.2⟩

/-- A write inside memory keeps the canonical form. -/
theorem Memory.wf_write {m : Memory} {a : Nat} (b : Byte) (ha : a ≤ 0xFFF) (hm : m.wf = true) : (m.write a b).wf = true := by
  unfold Memory.write Memory.wf
  split
  · exact Memory.wfFrom_erase a hm
  · next h =>
    exact Memory.wfFrom_insert (Nat.zero_le a) ha h (fun c hc => by simpa using (List.mem_filter.1 hc).2)
      (Memory.wfFrom_erase a hm)

/-- Consecutive writes inside memory keep the canonical form. -/
theorem Memory.wf_writeBytes {m : Memory} {a : Nat} {bs : List Byte} (ha : a + bs.length ≤ 0x1000) (hm : m.wf = true) :
    (m.writeBytes a bs).wf = true := by
  induction bs generalizing m a with
  | nil => exact hm
  | cons b bs ih =>
    simp only [List.length_cons] at ha
    exact ih (by omega) (Memory.wf_write b (by omega) hm)

/-- `CheckRange` in words: every byte of the range is inside memory (R64). -/
theorem rangeOk_iff (base len : Nat) : rangeOk base len = true ↔ base + len ≤ 0x1000 := by
  simp [rangeOk]

end Sys2Proof.Machine
end

