-- ==== Sys2Proof/Laws/PerInstr.lean ====
section
/-! SUPPORT. The per-instruction family TableRow: the word of an instruction has the fixed bits its row of spec/opcode_table.json gives
(30_encoding.md R106), one lemma per constructor. -/

namespace Sys2Proof.Laws

/-- The bits a row of the table fixes, and their values: its mask and match (R106). -/
def TableRow.maskAndMatch : Instr → Word × Word
  | .cls => (0xFFFF#16, 0x00E0#16)
  | .ret => (0xFFFF#16, 0x00EE#16)
  | .jp _ => (0xF000#16, 0x1000#16)
  | .call _ => (0xF000#16, 0x2000#16)
  | .seImm _ _ => (0xF000#16, 0x3000#16)
  | .sneImm _ _ => (0xF000#16, 0x4000#16)
  | .seReg _ _ => (0xF00F#16, 0x5000#16)
  | .ldImm _ _ => (0xF000#16, 0x6000#16)
  | .addImm _ _ => (0xF000#16, 0x7000#16)
  | .ldReg _ _ => (0xF00F#16, 0x8000#16)
  | .orReg _ _ => (0xF00F#16, 0x8001#16)
  | .andReg _ _ => (0xF00F#16, 0x8002#16)
  | .xorReg _ _ => (0xF00F#16, 0x8003#16)
  | .addReg _ _ => (0xF00F#16, 0x8004#16)
  | .sub _ _ => (0xF00F#16, 0x8005#16)
  | .shr _ _ => (0xF00F#16, 0x8006#16)
  | .subn _ _ => (0xF00F#16, 0x8007#16)
  | .shl _ _ => (0xF00F#16, 0x800E#16)
  | .sneReg _ _ => (0xF00F#16, 0x9000#16)
  | .ldI _ => (0xF000#16, 0xA000#16)
  | .jpV0 _ => (0xF000#16, 0xB000#16)
  | .rnd _ _ => (0xF000#16, 0xC000#16)
  | .drw _ _ _ => (0xF000#16, 0xD000#16)
  | .skp _ => (0xF0FF#16, 0xE09E#16)
  | .sknp _ => (0xF0FF#16, 0xE0A1#16)
  | .ldVxDt _ => (0xF0FF#16, 0xF007#16)
  | .ldVxK _ => (0xF0FF#16, 0xF00A#16)
  | .ldDtVx _ => (0xF0FF#16, 0xF015#16)
  | .ldStVx _ => (0xF0FF#16, 0xF018#16)
  | .addI _ => (0xF0FF#16, 0xF01E#16)
  | .ldF _ => (0xF0FF#16, 0xF029#16)
  | .ldB _ => (0xF0FF#16, 0xF033#16)
  | .ldMemVx _ => (0xF0FF#16, 0xF055#16)
  | .ldVxMem _ => (0xF0FF#16, 0xF065#16)
  | .sys _ => (0xF000#16, 0x0000#16)
  | .invalid _ => (0x0000#16, 0x0000#16)

/-- Every bit the row fixes has the row's value in the instruction's word. -/
def TableRow.Statement (i : Instr) : Prop :=
  encode i &&& (TableRow.maskAndMatch i).1 = (TableRow.maskAndMatch i).2

/-! ## The three masks over the formats -/

theorem TableRow.of_wordA (op : Nibble) (nnn : Imm12) : wordA op nnn &&& 0xF000#16 = wordA op 0 := by
  apply BitVec.eq_of_getLsbD_eq
  intro k hk
  simp only [BitVec.getLsbD_and, wordA_getLsbD]
  interval_cases k <;> simp

theorem TableRow.of_wordXK (op x : Nibble) (kk : Byte) : wordXK op x kk &&& 0xF000#16 = wordXK op 0 0 := by
  apply BitVec.eq_of_getLsbD_eq
  intro k hk
  simp only [BitVec.getLsbD_and, wordXK_getLsbD]
  interval_cases k <;> simp

theorem TableRow.of_wordXKFixed (op x : Nibble) (kk : Byte) : wordXK op x kk &&& 0xF0FF#16 = wordXK op 0 kk := by
  apply BitVec.eq_of_getLsbD_eq
  intro k hk
  simp only [BitVec.getLsbD_and, wordXK_getLsbD]
  interval_cases k <;> simp

theorem TableRow.of_wordXYN (op x y n : Nibble) : wordXYN op x y n &&& 0xF00F#16 = wordXYN op 0 0 n := by
  apply BitVec.eq_of_getLsbD_eq
  intro k hk
  simp only [BitVec.getLsbD_and, wordXYN_getLsbD]
  interval_cases k <;> simp

/-! ## The rows -/

theorem TableRow.cls : TableRow.Statement (.cls) := rfl
theorem TableRow.ret : TableRow.Statement (.ret) := rfl
theorem TableRow.jp (nnn : Imm12) : TableRow.Statement (.jp nnn) := (TableRow.of_wordA 0x1 nnn).trans rfl
theorem TableRow.call (nnn : Imm12) : TableRow.Statement (.call nnn) := (TableRow.of_wordA 0x2 nnn).trans rfl
theorem TableRow.seImm (x : Nibble) (kk : Byte) : TableRow.Statement (.seImm x kk) := (TableRow.of_wordXK 0x3 x kk).trans rfl
theorem TableRow.sneImm (x : Nibble) (kk : Byte) : TableRow.Statement (.sneImm x kk) := (TableRow.of_wordXK 0x4 x kk).trans rfl
theorem TableRow.seReg (x : Nibble) (y : Nibble) : TableRow.Statement (.seReg x y) := (TableRow.of_wordXYN 0x5 x y 0x0).trans rfl
theorem TableRow.ldImm (x : Nibble) (kk : Byte) : TableRow.Statement (.ldImm x kk) := (TableRow.of_wordXK 0x6 x kk).trans rfl
theorem TableRow.addImm (x : Nibble) (kk : Byte) : TableRow.Statement (.addImm x kk) := (TableRow.of_wordXK 0x7 x kk).trans rfl
theorem TableRow.ldReg (x : Nibble) (y : Nibble) : TableRow.Statement (.ldReg x y) := (TableRow.of_wordXYN 0x8 x y 0x0).trans rfl
theorem TableRow.orReg (x : Nibble) (y : Nibble) : TableRow.Statement (.orReg x y) := (TableRow.of_wordXYN 0x8 x y 0x1).trans rfl
theorem TableRow.andReg (x : Nibble) (y : Nibble) : TableRow.Statement (.andReg x y) := (TableRow.of_wordXYN 0x8 x y 0x2).trans rfl
theorem TableRow.xorReg (x : Nibble) (y : Nibble) : TableRow.Statement (.xorReg x y) := (TableRow.of_wordXYN 0x8 x y 0x3).trans rfl
theorem TableRow.addReg (x : Nibble) (y : Nibble) : TableRow.Statement (.addReg x y) := (TableRow.of_wordXYN 0x8 x y 0x4).trans rfl
theorem TableRow.sub (x : Nibble) (y : Nibble) : TableRow.Statement (.sub x y) := (TableRow.of_wordXYN 0x8 x y 0x5).trans rfl
theorem TableRow.shr (x : Nibble) (y : Nibble) : TableRow.Statement (.shr x y) := (TableRow.of_wordXYN 0x8 x y 0x6).trans rfl
theorem TableRow.subn (x : Nibble) (y : Nibble) : TableRow.Statement (.subn x y) := (TableRow.of_wordXYN 0x8 x y 0x7).trans rfl
theorem TableRow.shl (x : Nibble) (y : Nibble) : TableRow.Statement (.shl x y) := (TableRow.of_wordXYN 0x8 x y 0xE).trans rfl
theorem TableRow.sneReg (x : Nibble) (y : Nibble) : TableRow.Statement (.sneReg x y) := (TableRow.of_wordXYN 0x9 x y 0x0).trans rfl
theorem TableRow.ldI (nnn : Imm12) : TableRow.Statement (.ldI nnn) := (TableRow.of_wordA 0xA nnn).trans rfl
theorem TableRow.jpV0 (nnn : Imm12) : TableRow.Statement (.jpV0 nnn) := (TableRow.of_wordA 0xB nnn).trans rfl
theorem TableRow.rnd (x : Nibble) (kk : Byte) : TableRow.Statement (.rnd x kk) := (TableRow.of_wordXK 0xC x kk).trans rfl
theorem TableRow.drw (x : Nibble) (y : Nibble) (n : Nibble) : TableRow.Statement (.drw x y n) := by
  show wordXYN 0xD x y n &&& 0xF000#16 = 0xD000#16
  rw [wordXYN_eq_wordXK, TableRow.of_wordXK]
  decide
theorem TableRow.skp (x : Nibble) : TableRow.Statement (.skp x) := (TableRow.of_wordXKFixed 0xE x 0x9E).trans rfl
theorem TableRow.sknp (x : Nibble) : TableRow.Statement (.sknp x) := (TableRow.of_wordXKFixed 0xE x 0xA1).trans rfl
theorem TableRow.ldVxDt (x : Nibble) : TableRow.Statement (.ldVxDt x) := (TableRow.of_wordXKFixed 0xF x 0x07).trans rfl
theorem TableRow.ldVxK (x : Nibble) : TableRow.Statement (.ldVxK x) := (TableRow.of_wordXKFixed 0xF x 0x0A).trans rfl
theorem TableRow.ldDtVx (x : Nibble) : TableRow.Statement (.ldDtVx x) := (TableRow.of_wordXKFixed 0xF x 0x15).trans rfl
theorem TableRow.ldStVx (x : Nibble) : TableRow.Statement (.ldStVx x) := (TableRow.of_wordXKFixed 0xF x 0x18).trans rfl
theorem TableRow.addI (x : Nibble) : TableRow.Statement (.addI x) := (TableRow.of_wordXKFixed 0xF x 0x1E).trans rfl
theorem TableRow.ldF (x : Nibble) : TableRow.Statement (.ldF x) := (TableRow.of_wordXKFixed 0xF x 0x29).trans rfl
theorem TableRow.ldB (x : Nibble) : TableRow.Statement (.ldB x) := (TableRow.of_wordXKFixed 0xF x 0x33).trans rfl
theorem TableRow.ldMemVx (x : Nibble) : TableRow.Statement (.ldMemVx x) := (TableRow.of_wordXKFixed 0xF x 0x55).trans rfl
theorem TableRow.ldVxMem (x : Nibble) : TableRow.Statement (.ldVxMem x) := (TableRow.of_wordXKFixed 0xF x 0x65).trans rfl
theorem TableRow.sys (nnn : Imm12) : TableRow.Statement (.sys nnn) := (TableRow.of_wordA 0x0 nnn).trans rfl
theorem TableRow.invalid (word : Word) : TableRow.Statement (.invalid word) := BitVec.and_zero

end Sys2Proof.Laws
end

