-- ==== Sys2Proof/Laws/State.lean ====
section
/-! SUPPORT. One lemma per field per named update of State, each true by rfl, so that no later proof unfolds a record update. The
fields an update does not name are unchanged. -/

namespace Sys2Proof.Machine

/-! `State.setV` -/
@[simp] theorem State.setV_mem (s : State) (x : Nibble) (b : Byte) : (s.setV x b).mem = s.mem := rfl
@[simp] theorem State.setV_i (s : State) (x : Nibble) (b : Byte) : (s.setV x b).i = s.i := rfl
@[simp] theorem State.setV_pc (s : State) (x : Nibble) (b : Byte) : (s.setV x b).pc = s.pc := rfl
@[simp] theorem State.setV_stack (s : State) (x : Nibble) (b : Byte) : (s.setV x b).stack = s.stack := rfl
@[simp] theorem State.setV_stackEntry (s : State) (x : Nibble) (b : Byte) (j : Fin 16) : (s.setV x b).stackEntry j = s.stackEntry j := rfl
@[simp] theorem State.setV_sp (s : State) (x : Nibble) (b : Byte) : (s.setV x b).sp = s.sp := rfl
@[simp] theorem State.setV_dt (s : State) (x : Nibble) (b : Byte) : (s.setV x b).dt = s.dt := rfl
@[simp] theorem State.setV_st (s : State) (x : Nibble) (b : Byte) : (s.setV x b).st = s.st := rfl
@[simp] theorem State.setV_disp (s : State) (x : Nibble) (b : Byte) : (s.setV x b).disp = s.disp := rfl
@[simp] theorem State.setV_key (s : State) (x : Nibble) (b : Byte) : (s.setV x b).key = s.key := rfl
@[simp] theorem State.setV_fault (s : State) (x : Nibble) (b : Byte) : (s.setV x b).fault = s.fault := rfl
@[simp] theorem State.setV_halted (s : State) (x : Nibble) (b : Byte) : (s.setV x b).halted = s.halted := rfl
@[simp] theorem State.setV_cfg (s : State) (x : Nibble) (b : Byte) : (s.setV x b).cfg = s.cfg := rfl
@[simp] theorem State.setV_schedule (s : State) (x : Nibble) (b : Byte) : (s.setV x b).schedule = s.schedule := rfl
@[simp] theorem State.setV_randIn (s : State) (x : Nibble) (b : Byte) : (s.setV x b).randIn = s.randIn := rfl
@[simp] theorem State.setV_draws (s : State) (x : Nibble) (b : Byte) : (s.setV x b).draws = s.draws := rfl
@[simp] theorem State.setV_readKey (s : State) (x : Nibble) (b : Byte) (j : Nibble) : (s.setV x b).readKey j = s.readKey j := rfl

/-! `State.setI` -/
@[simp] theorem State.setI_mem (s : State) (w : Word) : (s.setI w).mem = s.mem := rfl
@[simp] theorem State.setI_v (s : State) (w : Word) : (s.setI w).v = s.v := rfl
@[simp] theorem State.setI_i (s : State) (w : Word) : (s.setI w).i = w := rfl
@[simp] theorem State.setI_pc (s : State) (w : Word) : (s.setI w).pc = s.pc := rfl
@[simp] theorem State.setI_stack (s : State) (w : Word) : (s.setI w).stack = s.stack := rfl
@[simp] theorem State.setI_stackEntry (s : State) (w : Word) (j : Fin 16) : (s.setI w).stackEntry j = s.stackEntry j := rfl
@[simp] theorem State.setI_sp (s : State) (w : Word) : (s.setI w).sp = s.sp := rfl
@[simp] theorem State.setI_dt (s : State) (w : Word) : (s.setI w).dt = s.dt := rfl
@[simp] theorem State.setI_st (s : State) (w : Word) : (s.setI w).st = s.st := rfl
@[simp] theorem State.setI_disp (s : State) (w : Word) : (s.setI w).disp = s.disp := rfl
@[simp] theorem State.setI_key (s : State) (w : Word) : (s.setI w).key = s.key := rfl
@[simp] theorem State.setI_fault (s : State) (w : Word) : (s.setI w).fault = s.fault := rfl
@[simp] theorem State.setI_halted (s : State) (w : Word) : (s.setI w).halted = s.halted := rfl
@[simp] theorem State.setI_cfg (s : State) (w : Word) : (s.setI w).cfg = s.cfg := rfl
@[simp] theorem State.setI_schedule (s : State) (w : Word) : (s.setI w).schedule = s.schedule := rfl
@[simp] theorem State.setI_randIn (s : State) (w : Word) : (s.setI w).randIn = s.randIn := rfl
@[simp] theorem State.setI_draws (s : State) (w : Word) : (s.setI w).draws = s.draws := rfl
@[simp] theorem State.setI_readV (s : State) (w : Word) (r : Nibble) : (s.setI w).readV r = s.readV r := rfl
@[simp] theorem State.setI_readKey (s : State) (w : Word) (j : Nibble) : (s.setI w).readKey j = s.readKey j := rfl

/-! `State.setPc` -/
@[simp] theorem State.setPc_mem (s : State) (w : Word) : (s.setPc w).mem = s.mem := rfl
@[simp] theorem State.setPc_v (s : State) (w : Word) : (s.setPc w).v = s.v := rfl
@[simp] theorem State.setPc_i (s : State) (w : Word) : (s.setPc w).i = s.i := rfl
@[simp] theorem State.setPc_pc (s : State) (w : Word) : (s.setPc w).pc = w := rfl
@[simp] theorem State.setPc_stack (s : State) (w : Word) : (s.setPc w).stack = s.stack := rfl
@[simp] theorem State.setPc_stackEntry (s : State) (w : Word) (j : Fin 16) : (s.setPc w).stackEntry j = s.stackEntry j := rfl
@[simp] theorem State.setPc_sp (s : State) (w : Word) : (s.setPc w).sp = s.sp := rfl
@[simp] theorem State.setPc_dt (s : State) (w : Word) : (s.setPc w).dt = s.dt := rfl
@[simp] theorem State.setPc_st (s : State) (w : Word) : (s.setPc w).st = s.st := rfl
@[simp] theorem State.setPc_disp (s : State) (w : Word) : (s.setPc w).disp = s.disp := rfl
@[simp] theorem State.setPc_key (s : State) (w : Word) : (s.setPc w).key = s.key := rfl
@[simp] theorem State.setPc_fault (s : State) (w : Word) : (s.setPc w).fault = s.fault := rfl
@[simp] theorem State.setPc_halted (s : State) (w : Word) : (s.setPc w).halted = s.halted := rfl
@[simp] theorem State.setPc_cfg (s : State) (w : Word) : (s.setPc w).cfg = s.cfg := rfl
@[simp] theorem State.setPc_schedule (s : State) (w : Word) : (s.setPc w).schedule = s.schedule := rfl
@[simp] theorem State.setPc_randIn (s : State) (w : Word) : (s.setPc w).randIn = s.randIn := rfl
@[simp] theorem State.setPc_draws (s : State) (w : Word) : (s.setPc w).draws = s.draws := rfl
@[simp] theorem State.setPc_readV (s : State) (w : Word) (r : Nibble) : (s.setPc w).readV r = s.readV r := rfl
@[simp] theorem State.setPc_readKey (s : State) (w : Word) (j : Nibble) : (s.setPc w).readKey j = s.readKey j := rfl

/-! `State.setDt` -/
@[simp] theorem State.setDt_mem (s : State) (b : Byte) : (s.setDt b).mem = s.mem := rfl
@[simp] theorem State.setDt_v (s : State) (b : Byte) : (s.setDt b).v = s.v := rfl
@[simp] theorem State.setDt_i (s : State) (b : Byte) : (s.setDt b).i = s.i := rfl
@[simp] theorem State.setDt_pc (s : State) (b : Byte) : (s.setDt b).pc = s.pc := rfl
@[simp] theorem State.setDt_stack (s : State) (b : Byte) : (s.setDt b).stack = s.stack := rfl
@[simp] theorem State.setDt_stackEntry (s : State) (b : Byte) (j : Fin 16) : (s.setDt b).stackEntry j = s.stackEntry j := rfl
@[simp] theorem State.setDt_sp (s : State) (b : Byte) : (s.setDt b).sp = s.sp := rfl
@[simp] theorem State.setDt_dt (s : State) (b : Byte) : (s.setDt b).dt = b := rfl
@[simp] theorem State.setDt_st (s : State) (b : Byte) : (s.setDt b).st = s.st := rfl
@[simp] theorem State.setDt_disp (s : State) (b : Byte) : (s.setDt b).disp = s.disp := rfl
@[simp] theorem State.setDt_key (s : State) (b : Byte) : (s.setDt b).key = s.key := rfl
@[simp] theorem State.setDt_fault (s : State) (b : Byte) : (s.setDt b).fault = s.fault := rfl
@[simp] theorem State.setDt_halted (s : State) (b : Byte) : (s.setDt b).halted = s.halted := rfl
@[simp] theorem State.setDt_cfg (s : State) (b : Byte) : (s.setDt b).cfg = s.cfg := rfl
@[simp] theorem State.setDt_schedule (s : State) (b : Byte) : (s.setDt b).schedule = s.schedule := rfl
@[simp] theorem State.setDt_randIn (s : State) (b : Byte) : (s.setDt b).randIn = s.randIn := rfl
@[simp] theorem State.setDt_draws (s : State) (b : Byte) : (s.setDt b).draws = s.draws := rfl
@[simp] theorem State.setDt_readV (s : State) (b : Byte) (r : Nibble) : (s.setDt b).readV r = s.readV r := rfl
@[simp] theorem State.setDt_readKey (s : State) (b : Byte) (j : Nibble) : (s.setDt b).readKey j = s.readKey j := rfl

/-! `State.setSt` -/
@[simp] theorem State.setSt_mem (s : State) (b : Byte) : (s.setSt b).mem = s.mem := rfl
@[simp] theorem State.setSt_v (s : State) (b : Byte) : (s.setSt b).v = s.v := rfl
@[simp] theorem State.setSt_i (s : State) (b : Byte) : (s.setSt b).i = s.i := rfl
@[simp] theorem State.setSt_pc (s : State) (b : Byte) : (s.setSt b).pc = s.pc := rfl
@[simp] theorem State.setSt_stack (s : State) (b : Byte) : (s.setSt b).stack = s.stack := rfl
@[simp] theorem State.setSt_stackEntry (s : State) (b : Byte) (j : Fin 16) : (s.setSt b).stackEntry j = s.stackEntry j := rfl
@[simp] theorem State.setSt_sp (s : State) (b : Byte) : (s.setSt b).sp = s.sp := rfl
@[simp] theorem State.setSt_dt (s : State) (b : Byte) : (s.setSt b).dt = s.dt := rfl
@[simp] theorem State.setSt_st (s : State) (b : Byte) : (s.setSt b).st = b := rfl
@[simp] theorem State.setSt_disp (s : State) (b : Byte) : (s.setSt b).disp = s.disp := rfl
@[simp] theorem State.setSt_key (s : State) (b : Byte) : (s.setSt b).key = s.key := rfl
@[simp] theorem State.setSt_fault (s : State) (b : Byte) : (s.setSt b).fault = s.fault := rfl
@[simp] theorem State.setSt_halted (s : State) (b : Byte) : (s.setSt b).halted = s.halted := rfl
@[simp] theorem State.setSt_cfg (s : State) (b : Byte) : (s.setSt b).cfg = s.cfg := rfl
@[simp] theorem State.setSt_schedule (s : State) (b : Byte) : (s.setSt b).schedule = s.schedule := rfl
@[simp] theorem State.setSt_randIn (s : State) (b : Byte) : (s.setSt b).randIn = s.randIn := rfl
@[simp] theorem State.setSt_draws (s : State) (b : Byte) : (s.setSt b).draws = s.draws := rfl
@[simp] theorem State.setSt_readV (s : State) (b : Byte) (r : Nibble) : (s.setSt b).readV r = s.readV r := rfl
@[simp] theorem State.setSt_readKey (s : State) (b : Byte) (j : Nibble) : (s.setSt b).readKey j = s.readKey j := rfl

/-! `State.setDisp` -/
@[simp] theorem State.setDisp_mem (s : State) (d : Display) : (s.setDisp d).mem = s.mem := rfl
@[simp] theorem State.setDisp_v (s : State) (d : Display) : (s.setDisp d).v = s.v := rfl
@[simp] theorem State.setDisp_i (s : State) (d : Display) : (s.setDisp d).i = s.i := rfl
@[simp] theorem State.setDisp_pc (s : State) (d : Display) : (s.setDisp d).pc = s.pc := rfl
@[simp] theorem State.setDisp_stack (s : State) (d : Display) : (s.setDisp d).stack = s.stack := rfl
@[simp] theorem State.setDisp_stackEntry (s : State) (d : Display) (j : Fin 16) : (s.setDisp d).stackEntry j = s.stackEntry j := rfl
@[simp] theorem State.setDisp_sp (s : State) (d : Display) : (s.setDisp d).sp = s.sp := rfl
@[simp] theorem State.setDisp_dt (s : State) (d : Display) : (s.setDisp d).dt = s.dt := rfl
@[simp] theorem State.setDisp_st (s : State) (d : Display) : (s.setDisp d).st = s.st := rfl
@[simp] theorem State.setDisp_disp (s : State) (d : Display) : (s.setDisp d).disp = d := rfl
@[simp] theorem State.setDisp_key (s : State) (d : Display) : (s.setDisp d).key = s.key := rfl
@[simp] theorem State.setDisp_fault (s : State) (d : Display) : (s.setDisp d).fault = s.fault := rfl
@[simp] theorem State.setDisp_halted (s : State) (d : Display) : (s.setDisp d).halted = s.halted := rfl
@[simp] theorem State.setDisp_cfg (s : State) (d : Display) : (s.setDisp d).cfg = s.cfg := rfl
@[simp] theorem State.setDisp_schedule (s : State) (d : Display) : (s.setDisp d).schedule = s.schedule := rfl
@[simp] theorem State.setDisp_randIn (s : State) (d : Display) : (s.setDisp d).randIn = s.randIn := rfl
@[simp] theorem State.setDisp_draws (s : State) (d : Display) : (s.setDisp d).draws = s.draws := rfl
@[simp] theorem State.setDisp_readV (s : State) (d : Display) (r : Nibble) : (s.setDisp d).readV r = s.readV r := rfl
@[simp] theorem State.setDisp_readKey (s : State) (d : Display) (j : Nibble) : (s.setDisp d).readKey j = s.readKey j := rfl

/-! `State.setMem` -/
@[simp] theorem State.setMem_mem (s : State) (m : Memory) : (s.setMem m).mem = m := rfl
@[simp] theorem State.setMem_v (s : State) (m : Memory) : (s.setMem m).v = s.v := rfl
@[simp] theorem State.setMem_i (s : State) (m : Memory) : (s.setMem m).i = s.i := rfl
@[simp] theorem State.setMem_pc (s : State) (m : Memory) : (s.setMem m).pc = s.pc := rfl
@[simp] theorem State.setMem_stack (s : State) (m : Memory) : (s.setMem m).stack = s.stack := rfl
@[simp] theorem State.setMem_stackEntry (s : State) (m : Memory) (j : Fin 16) : (s.setMem m).stackEntry j = s.stackEntry j := rfl
@[simp] theorem State.setMem_sp (s : State) (m : Memory) : (s.setMem m).sp = s.sp := rfl
@[simp] theorem State.setMem_dt (s : State) (m : Memory) : (s.setMem m).dt = s.dt := rfl
@[simp] theorem State.setMem_st (s : State) (m : Memory) : (s.setMem m).st = s.st := rfl
@[simp] theorem State.setMem_disp (s : State) (m : Memory) : (s.setMem m).disp = s.disp := rfl
@[simp] theorem State.setMem_key (s : State) (m : Memory) : (s.setMem m).key = s.key := rfl
@[simp] theorem State.setMem_fault (s : State) (m : Memory) : (s.setMem m).fault = s.fault := rfl
@[simp] theorem State.setMem_halted (s : State) (m : Memory) : (s.setMem m).halted = s.halted := rfl
@[simp] theorem State.setMem_cfg (s : State) (m : Memory) : (s.setMem m).cfg = s.cfg := rfl
@[simp] theorem State.setMem_schedule (s : State) (m : Memory) : (s.setMem m).schedule = s.schedule := rfl
@[simp] theorem State.setMem_randIn (s : State) (m : Memory) : (s.setMem m).randIn = s.randIn := rfl
@[simp] theorem State.setMem_draws (s : State) (m : Memory) : (s.setMem m).draws = s.draws := rfl
@[simp] theorem State.setMem_readV (s : State) (m : Memory) (r : Nibble) : (s.setMem m).readV r = s.readV r := rfl
@[simp] theorem State.setMem_readKey (s : State) (m : Memory) (j : Nibble) : (s.setMem m).readKey j = s.readKey j := rfl

/-! `State.setKey` -/
@[simp] theorem State.setKey_mem (s : State) (k : Nibble) (p : Bool) : (s.setKey k p).mem = s.mem := rfl
@[simp] theorem State.setKey_v (s : State) (k : Nibble) (p : Bool) : (s.setKey k p).v = s.v := rfl
@[simp] theorem State.setKey_i (s : State) (k : Nibble) (p : Bool) : (s.setKey k p).i = s.i := rfl
@[simp] theorem State.setKey_pc (s : State) (k : Nibble) (p : Bool) : (s.setKey k p).pc = s.pc := rfl
@[simp] theorem State.setKey_stack (s : State) (k : Nibble) (p : Bool) : (s.setKey k p).stack = s.stack := rfl
@[simp] theorem State.setKey_stackEntry (s : State) (k : Nibble) (p : Bool) (j : Fin 16) : (s.setKey k p).stackEntry j = s.stackEntry j := rfl
@[simp] theorem State.setKey_sp (s : State) (k : Nibble) (p : Bool) : (s.setKey k p).sp = s.sp := rfl
@[simp] theorem State.setKey_dt (s : State) (k : Nibble) (p : Bool) : (s.setKey k p).dt = s.dt := rfl
@[simp] theorem State.setKey_st (s : State) (k : Nibble) (p : Bool) : (s.setKey k p).st = s.st := rfl
@[simp] theorem State.setKey_disp (s : State) (k : Nibble) (p : Bool) : (s.setKey k p).disp = s.disp := rfl
@[simp] theorem State.setKey_fault (s : State) (k : Nibble) (p : Bool) : (s.setKey k p).fault = s.fault := rfl
@[simp] theorem State.setKey_halted (s : State) (k : Nibble) (p : Bool) : (s.setKey k p).halted = s.halted := rfl
@[simp] theorem State.setKey_cfg (s : State) (k : Nibble) (p : Bool) : (s.setKey k p).cfg = s.cfg := rfl
@[simp] theorem State.setKey_schedule (s : State) (k : Nibble) (p : Bool) : (s.setKey k p).schedule = s.schedule := rfl
@[simp] theorem State.setKey_randIn (s : State) (k : Nibble) (p : Bool) : (s.setKey k p).randIn = s.randIn := rfl
@[simp] theorem State.setKey_draws (s : State) (k : Nibble) (p : Bool) : (s.setKey k p).draws = s.draws := rfl
@[simp] theorem State.setKey_readV (s : State) (k : Nibble) (p : Bool) (r : Nibble) : (s.setKey k p).readV r = s.readV r := rfl

/-! `State.setSchedule` -/
@[simp] theorem State.setSchedule_mem (s : State) (es : List HostEvent) : (s.setSchedule es).mem = s.mem := rfl
@[simp] theorem State.setSchedule_v (s : State) (es : List HostEvent) : (s.setSchedule es).v = s.v := rfl
@[simp] theorem State.setSchedule_i (s : State) (es : List HostEvent) : (s.setSchedule es).i = s.i := rfl
@[simp] theorem State.setSchedule_pc (s : State) (es : List HostEvent) : (s.setSchedule es).pc = s.pc := rfl
@[simp] theorem State.setSchedule_stack (s : State) (es : List HostEvent) : (s.setSchedule es).stack = s.stack := rfl
@[simp] theorem State.setSchedule_stackEntry (s : State) (es : List HostEvent) (j : Fin 16) : (s.setSchedule es).stackEntry j = s.stackEntry j := rfl
@[simp] theorem State.setSchedule_sp (s : State) (es : List HostEvent) : (s.setSchedule es).sp = s.sp := rfl
@[simp] theorem State.setSchedule_dt (s : State) (es : List HostEvent) : (s.setSchedule es).dt = s.dt := rfl
@[simp] theorem State.setSchedule_st (s : State) (es : List HostEvent) : (s.setSchedule es).st = s.st := rfl
@[simp] theorem State.setSchedule_disp (s : State) (es : List HostEvent) : (s.setSchedule es).disp = s.disp := rfl
@[simp] theorem State.setSchedule_key (s : State) (es : List HostEvent) : (s.setSchedule es).key = s.key := rfl
@[simp] theorem State.setSchedule_fault (s : State) (es : List HostEvent) : (s.setSchedule es).fault = s.fault := rfl
@[simp] theorem State.setSchedule_halted (s : State) (es : List HostEvent) : (s.setSchedule es).halted = s.halted := rfl
@[simp] theorem State.setSchedule_cfg (s : State) (es : List HostEvent) : (s.setSchedule es).cfg = s.cfg := rfl
@[simp] theorem State.setSchedule_schedule (s : State) (es : List HostEvent) : (s.setSchedule es).schedule = es := rfl
@[simp] theorem State.setSchedule_randIn (s : State) (es : List HostEvent) : (s.setSchedule es).randIn = s.randIn := rfl
@[simp] theorem State.setSchedule_draws (s : State) (es : List HostEvent) : (s.setSchedule es).draws = s.draws := rfl
@[simp] theorem State.setSchedule_readV (s : State) (es : List HostEvent) (r : Nibble) : (s.setSchedule es).readV r = s.readV r := rfl
@[simp] theorem State.setSchedule_readKey (s : State) (es : List HostEvent) (j : Nibble) : (s.setSchedule es).readKey j = s.readKey j := rfl

/-! `State.takeFault` -/
@[simp] theorem State.takeFault_mem (s : State) (c : FaultCause) (w : Option Word) : (s.takeFault c w).mem = s.mem := rfl
@[simp] theorem State.takeFault_v (s : State) (c : FaultCause) (w : Option Word) : (s.takeFault c w).v = s.v := rfl
@[simp] theorem State.takeFault_i (s : State) (c : FaultCause) (w : Option Word) : (s.takeFault c w).i = s.i := rfl
@[simp] theorem State.takeFault_pc (s : State) (c : FaultCause) (w : Option Word) : (s.takeFault c w).pc = s.pc := rfl
@[simp] theorem State.takeFault_stack (s : State) (c : FaultCause) (w : Option Word) : (s.takeFault c w).stack = s.stack := rfl
@[simp] theorem State.takeFault_stackEntry (s : State) (c : FaultCause) (w : Option Word) (j : Fin 16) : (s.takeFault c w).stackEntry j = s.stackEntry j := rfl
@[simp] theorem State.takeFault_sp (s : State) (c : FaultCause) (w : Option Word) : (s.takeFault c w).sp = s.sp := rfl
@[simp] theorem State.takeFault_dt (s : State) (c : FaultCause) (w : Option Word) : (s.takeFault c w).dt = s.dt := rfl
@[simp] theorem State.takeFault_st (s : State) (c : FaultCause) (w : Option Word) : (s.takeFault c w).st = s.st := rfl
@[simp] theorem State.takeFault_disp (s : State) (c : FaultCause) (w : Option Word) : (s.takeFault c w).disp = s.disp := rfl
@[simp] theorem State.takeFault_key (s : State) (c : FaultCause) (w : Option Word) : (s.takeFault c w).key = s.key := rfl
@[simp] theorem State.takeFault_fault (s : State) (c : FaultCause) (w : Option Word) : (s.takeFault c w).fault = { cause := some c, pc := s.pc, word := w.getD 0, wordValid := w.isSome } := rfl
@[simp] theorem State.takeFault_halted (s : State) (c : FaultCause) (w : Option Word) : (s.takeFault c w).halted = true := rfl
@[simp] theorem State.takeFault_cfg (s : State) (c : FaultCause) (w : Option Word) : (s.takeFault c w).cfg = s.cfg := rfl
@[simp] theorem State.takeFault_schedule (s : State) (c : FaultCause) (w : Option Word) : (s.takeFault c w).schedule = s.schedule := rfl
@[simp] theorem State.takeFault_randIn (s : State) (c : FaultCause) (w : Option Word) : (s.takeFault c w).randIn = s.randIn := rfl
@[simp] theorem State.takeFault_draws (s : State) (c : FaultCause) (w : Option Word) : (s.takeFault c w).draws = s.draws := rfl
@[simp] theorem State.takeFault_readV (s : State) (c : FaultCause) (w : Option Word) (r : Nibble) : (s.takeFault c w).readV r = s.readV r := rfl
@[simp] theorem State.takeFault_readKey (s : State) (c : FaultCause) (w : Option Word) (j : Nibble) : (s.takeFault c w).readKey j = s.readKey j := rfl

/-! `State.setStack` -/
@[simp] theorem State.setStack_mem (s : State) (e : Vector Word 16) (p : Fin 17) : (s.setStack e p).mem = s.mem := rfl
@[simp] theorem State.setStack_v (s : State) (e : Vector Word 16) (p : Fin 17) : (s.setStack e p).v = s.v := rfl
@[simp] theorem State.setStack_i (s : State) (e : Vector Word 16) (p : Fin 17) : (s.setStack e p).i = s.i := rfl
@[simp] theorem State.setStack_pc (s : State) (e : Vector Word 16) (p : Fin 17) : (s.setStack e p).pc = s.pc := rfl
@[simp] theorem State.setStack_stack (s : State) (e : Vector Word 16) (p : Fin 17) : (s.setStack e p).stack = e := rfl
@[simp] theorem State.setStack_sp (s : State) (e : Vector Word 16) (p : Fin 17) : (s.setStack e p).sp = p := rfl
@[simp] theorem State.setStack_dt (s : State) (e : Vector Word 16) (p : Fin 17) : (s.setStack e p).dt = s.dt := rfl
@[simp] theorem State.setStack_st (s : State) (e : Vector Word 16) (p : Fin 17) : (s.setStack e p).st = s.st := rfl
@[simp] theorem State.setStack_disp (s : State) (e : Vector Word 16) (p : Fin 17) : (s.setStack e p).disp = s.disp := rfl
@[simp] theorem State.setStack_key (s : State) (e : Vector Word 16) (p : Fin 17) : (s.setStack e p).key = s.key := rfl
@[simp] theorem State.setStack_fault (s : State) (e : Vector Word 16) (p : Fin 17) : (s.setStack e p).fault = s.fault := rfl
@[simp] theorem State.setStack_halted (s : State) (e : Vector Word 16) (p : Fin 17) : (s.setStack e p).halted = s.halted := rfl
@[simp] theorem State.setStack_cfg (s : State) (e : Vector Word 16) (p : Fin 17) : (s.setStack e p).cfg = s.cfg := rfl
@[simp] theorem State.setStack_schedule (s : State) (e : Vector Word 16) (p : Fin 17) : (s.setStack e p).schedule = s.schedule := rfl
@[simp] theorem State.setStack_randIn (s : State) (e : Vector Word 16) (p : Fin 17) : (s.setStack e p).randIn = s.randIn := rfl
@[simp] theorem State.setStack_draws (s : State) (e : Vector Word 16) (p : Fin 17) : (s.setStack e p).draws = s.draws := rfl
@[simp] theorem State.setStack_readV (s : State) (e : Vector Word 16) (p : Fin 17) (r : Nibble) : (s.setStack e p).readV r = s.readV r := rfl
@[simp] theorem State.setStack_readKey (s : State) (e : Vector Word 16) (p : Fin 17) (j : Nibble) : (s.setStack e p).readKey j = s.readKey j := rfl
@[simp] theorem State.setStack_stackEntry_self (s : State) (p : Fin 17) (j : Fin 16) : (s.setStack s.stack p).stackEntry j = s.stackEntry j := rfl

/-! `State.advance` -/
@[simp] theorem State.advance_mem (s : State) : s.advance.mem = s.mem := rfl
@[simp] theorem State.advance_v (s : State) : s.advance.v = s.v := rfl
@[simp] theorem State.advance_i (s : State) : s.advance.i = s.i := rfl
@[simp] theorem State.advance_pc (s : State) : s.advance.pc = s.pc + 2 := rfl
@[simp] theorem State.advance_stack (s : State) : s.advance.stack = s.stack := rfl
@[simp] theorem State.advance_stackEntry (s : State) (j : Fin 16) : s.advance.stackEntry j = s.stackEntry j := rfl
@[simp] theorem State.advance_sp (s : State) : s.advance.sp = s.sp := rfl
@[simp] theorem State.advance_dt (s : State) : s.advance.dt = s.dt := rfl
@[simp] theorem State.advance_st (s : State) : s.advance.st = s.st := rfl
@[simp] theorem State.advance_disp (s : State) : s.advance.disp = s.disp := rfl
@[simp] theorem State.advance_key (s : State) : s.advance.key = s.key := rfl
@[simp] theorem State.advance_fault (s : State) : s.advance.fault = s.fault := rfl
@[simp] theorem State.advance_halted (s : State) : s.advance.halted = s.halted := rfl
@[simp] theorem State.advance_cfg (s : State) : s.advance.cfg = s.cfg := rfl
@[simp] theorem State.advance_schedule (s : State) : s.advance.schedule = s.schedule := rfl
@[simp] theorem State.advance_randIn (s : State) : s.advance.randIn = s.randIn := rfl
@[simp] theorem State.advance_draws (s : State) : s.advance.draws = s.draws := rfl
@[simp] theorem State.advance_readV (s : State) (r : Nibble) : s.advance.readV r = s.readV r := rfl
@[simp] theorem State.advance_readKey (s : State) (j : Nibble) : s.advance.readKey j = s.readKey j := rfl

/-! `State.skipIf` -/
@[simp] theorem State.skipIf_mem (s : State) (c : Bool) : (s.skipIf c).mem = s.mem := rfl
@[simp] theorem State.skipIf_v (s : State) (c : Bool) : (s.skipIf c).v = s.v := rfl
@[simp] theorem State.skipIf_i (s : State) (c : Bool) : (s.skipIf c).i = s.i := rfl
@[simp] theorem State.skipIf_pc (s : State) (c : Bool) : (s.skipIf c).pc = if c then s.pc + 4 else s.pc + 2 := rfl
@[simp] theorem State.skipIf_stack (s : State) (c : Bool) : (s.skipIf c).stack = s.stack := rfl
@[simp] theorem State.skipIf_stackEntry (s : State) (c : Bool) (j : Fin 16) : (s.skipIf c).stackEntry j = s.stackEntry j := rfl
@[simp] theorem State.skipIf_sp (s : State) (c : Bool) : (s.skipIf c).sp = s.sp := rfl
@[simp] theorem State.skipIf_dt (s : State) (c : Bool) : (s.skipIf c).dt = s.dt := rfl
@[simp] theorem State.skipIf_st (s : State) (c : Bool) : (s.skipIf c).st = s.st := rfl
@[simp] theorem State.skipIf_disp (s : State) (c : Bool) : (s.skipIf c).disp = s.disp := rfl
@[simp] theorem State.skipIf_key (s : State) (c : Bool) : (s.skipIf c).key = s.key := rfl
@[simp] theorem State.skipIf_fault (s : State) (c : Bool) : (s.skipIf c).fault = s.fault := rfl
@[simp] theorem State.skipIf_halted (s : State) (c : Bool) : (s.skipIf c).halted = s.halted := rfl
@[simp] theorem State.skipIf_cfg (s : State) (c : Bool) : (s.skipIf c).cfg = s.cfg := rfl
@[simp] theorem State.skipIf_schedule (s : State) (c : Bool) : (s.skipIf c).schedule = s.schedule := rfl
@[simp] theorem State.skipIf_randIn (s : State) (c : Bool) : (s.skipIf c).randIn = s.randIn := rfl
@[simp] theorem State.skipIf_draws (s : State) (c : Bool) : (s.skipIf c).draws = s.draws := rfl
@[simp] theorem State.skipIf_readV (s : State) (c : Bool) (r : Nibble) : (s.skipIf c).readV r = s.readV r := rfl
@[simp] theorem State.skipIf_readKey (s : State) (c : Bool) (j : Nibble) : (s.skipIf c).readKey j = s.readKey j := rfl

/-! `State.writeResult` -/
@[simp] theorem State.writeResult_mem (s : State) (x : Nibble) (r : Byte) : (s.writeResult x r).mem = s.mem := rfl
@[simp] theorem State.writeResult_i (s : State) (x : Nibble) (r : Byte) : (s.writeResult x r).i = s.i := rfl
@[simp] theorem State.writeResult_pc (s : State) (x : Nibble) (r : Byte) : (s.writeResult x r).pc = s.pc + 2 := rfl
@[simp] theorem State.writeResult_stack (s : State) (x : Nibble) (r : Byte) : (s.writeResult x r).stack = s.stack := rfl
@[simp] theorem State.writeResult_stackEntry (s : State) (x : Nibble) (r : Byte) (j : Fin 16) : (s.writeResult x r).stackEntry j = s.stackEntry j := rfl
@[simp] theorem State.writeResult_sp (s : State) (x : Nibble) (r : Byte) : (s.writeResult x r).sp = s.sp := rfl
@[simp] theorem State.writeResult_dt (s : State) (x : Nibble) (r : Byte) : (s.writeResult x r).dt = s.dt := rfl
@[simp] theorem State.writeResult_st (s : State) (x : Nibble) (r : Byte) : (s.writeResult x r).st = s.st := rfl
@[simp] theorem State.writeResult_disp (s : State) (x : Nibble) (r : Byte) : (s.writeResult x r).disp = s.disp := rfl
@[simp] theorem State.writeResult_key (s : State) (x : Nibble) (r : Byte) : (s.writeResult x r).key = s.key := rfl
@[simp] theorem State.writeResult_fault (s : State) (x : Nibble) (r : Byte) : (s.writeResult x r).fault = s.fault := rfl
@[simp] theorem State.writeResult_halted (s : State) (x : Nibble) (r : Byte) : (s.writeResult x r).halted = s.halted := rfl
@[simp] theorem State.writeResult_cfg (s : State) (x : Nibble) (r : Byte) : (s.writeResult x r).cfg = s.cfg := rfl
@[simp] theorem State.writeResult_schedule (s : State) (x : Nibble) (r : Byte) : (s.writeResult x r).schedule = s.schedule := rfl
@[simp] theorem State.writeResult_randIn (s : State) (x : Nibble) (r : Byte) : (s.writeResult x r).randIn = s.randIn := rfl
@[simp] theorem State.writeResult_draws (s : State) (x : Nibble) (r : Byte) : (s.writeResult x r).draws = s.draws := rfl
@[simp] theorem State.writeResult_readKey (s : State) (x : Nibble) (r : Byte) (j : Nibble) : (s.writeResult x r).readKey j = s.readKey j := rfl

/-! `State.writeResultAndFlag` -/
@[simp] theorem State.writeResultAndFlag_mem (s : State) (x : Nibble) (r : Byte) (f : Bool) : (s.writeResultAndFlag x r f).mem = s.mem := rfl
@[simp] theorem State.writeResultAndFlag_i (s : State) (x : Nibble) (r : Byte) (f : Bool) : (s.writeResultAndFlag x r f).i = s.i := rfl
@[simp] theorem State.writeResultAndFlag_pc (s : State) (x : Nibble) (r : Byte) (f : Bool) : (s.writeResultAndFlag x r f).pc = s.pc + 2 := rfl
@[simp] theorem State.writeResultAndFlag_stack (s : State) (x : Nibble) (r : Byte) (f : Bool) : (s.writeResultAndFlag x r f).stack = s.stack := rfl
@[simp] theorem State.writeResultAndFlag_stackEntry (s : State) (x : Nibble) (r : Byte) (f : Bool) (j : Fin 16) : (s.writeResultAndFlag x r f).stackEntry j = s.stackEntry j := rfl
@[simp] theorem State.writeResultAndFlag_sp (s : State) (x : Nibble) (r : Byte) (f : Bool) : (s.writeResultAndFlag x r f).sp = s.sp := rfl
@[simp] theorem State.writeResultAndFlag_dt (s : State) (x : Nibble) (r : Byte) (f : Bool) : (s.writeResultAndFlag x r f).dt = s.dt := rfl
@[simp] theorem State.writeResultAndFlag_st (s : State) (x : Nibble) (r : Byte) (f : Bool) : (s.writeResultAndFlag x r f).st = s.st := rfl
@[simp] theorem State.writeResultAndFlag_disp (s : State) (x : Nibble) (r : Byte) (f : Bool) : (s.writeResultAndFlag x r f).disp = s.disp := rfl
@[simp] theorem State.writeResultAndFlag_key (s : State) (x : Nibble) (r : Byte) (f : Bool) : (s.writeResultAndFlag x r f).key = s.key := rfl
@[simp] theorem State.writeResultAndFlag_fault (s : State) (x : Nibble) (r : Byte) (f : Bool) : (s.writeResultAndFlag x r f).fault = s.fault := rfl
@[simp] theorem State.writeResultAndFlag_halted (s : State) (x : Nibble) (r : Byte) (f : Bool) : (s.writeResultAndFlag x r f).halted = s.halted := rfl
@[simp] theorem State.writeResultAndFlag_cfg (s : State) (x : Nibble) (r : Byte) (f : Bool) : (s.writeResultAndFlag x r f).cfg = s.cfg := rfl
@[simp] theorem State.writeResultAndFlag_schedule (s : State) (x : Nibble) (r : Byte) (f : Bool) : (s.writeResultAndFlag x r f).schedule = s.schedule := rfl
@[simp] theorem State.writeResultAndFlag_randIn (s : State) (x : Nibble) (r : Byte) (f : Bool) : (s.writeResultAndFlag x r f).randIn = s.randIn := rfl
@[simp] theorem State.writeResultAndFlag_draws (s : State) (x : Nibble) (r : Byte) (f : Bool) : (s.writeResultAndFlag x r f).draws = s.draws := rfl
@[simp] theorem State.writeResultAndFlag_readKey (s : State) (x : Nibble) (r : Byte) (f : Bool) (j : Nibble) : (s.writeResultAndFlag x r f).readKey j = s.readKey j := rfl

/-! `State.tick` -/
@[simp] theorem State.tick_mem (s : State) : s.tick.mem = s.mem := rfl
@[simp] theorem State.tick_v (s : State) : s.tick.v = s.v := rfl
@[simp] theorem State.tick_i (s : State) : s.tick.i = s.i := rfl
@[simp] theorem State.tick_pc (s : State) : s.tick.pc = s.pc := rfl
@[simp] theorem State.tick_stack (s : State) : s.tick.stack = s.stack := rfl
@[simp] theorem State.tick_stackEntry (s : State) (j : Fin 16) : s.tick.stackEntry j = s.stackEntry j := rfl
@[simp] theorem State.tick_sp (s : State) : s.tick.sp = s.sp := rfl
@[simp] theorem State.tick_dt (s : State) : s.tick.dt = countDown s.dt := rfl
@[simp] theorem State.tick_st (s : State) : s.tick.st = countDown s.st := rfl
@[simp] theorem State.tick_disp (s : State) : s.tick.disp = s.disp := rfl
@[simp] theorem State.tick_key (s : State) : s.tick.key = s.key := rfl
@[simp] theorem State.tick_fault (s : State) : s.tick.fault = s.fault := rfl
@[simp] theorem State.tick_halted (s : State) : s.tick.halted = s.halted := rfl
@[simp] theorem State.tick_cfg (s : State) : s.tick.cfg = s.cfg := rfl
@[simp] theorem State.tick_schedule (s : State) : s.tick.schedule = s.schedule := rfl
@[simp] theorem State.tick_randIn (s : State) : s.tick.randIn = s.randIn := rfl
@[simp] theorem State.tick_draws (s : State) : s.tick.draws = s.draws := rfl
@[simp] theorem State.tick_readV (s : State) (r : Nibble) : s.tick.readV r = s.readV r := rfl
@[simp] theorem State.tick_readKey (s : State) (j : Nibble) : s.tick.readKey j = s.readKey j := rfl

/-! `State.dropRand` changes the random port alone. -/
@[simp] theorem State.dropRand_mem (s : State) : s.dropRand.mem = s.mem := by unfold State.dropRand; split <;> rfl
@[simp] theorem State.dropRand_v (s : State) : s.dropRand.v = s.v := by unfold State.dropRand; split <;> rfl
@[simp] theorem State.dropRand_i (s : State) : s.dropRand.i = s.i := by unfold State.dropRand; split <;> rfl
@[simp] theorem State.dropRand_pc (s : State) : s.dropRand.pc = s.pc := by unfold State.dropRand; split <;> rfl
@[simp] theorem State.dropRand_stack (s : State) : s.dropRand.stack = s.stack := by unfold State.dropRand; split <;> rfl
@[simp] theorem State.dropRand_stackEntry (s : State) (j : Fin 16) : s.dropRand.stackEntry j = s.stackEntry j := by unfold State.dropRand; split <;> rfl
@[simp] theorem State.dropRand_sp (s : State) : s.dropRand.sp = s.sp := by unfold State.dropRand; split <;> rfl
@[simp] theorem State.dropRand_dt (s : State) : s.dropRand.dt = s.dt := by unfold State.dropRand; split <;> rfl
@[simp] theorem State.dropRand_st (s : State) : s.dropRand.st = s.st := by unfold State.dropRand; split <;> rfl
@[simp] theorem State.dropRand_disp (s : State) : s.dropRand.disp = s.disp := by unfold State.dropRand; split <;> rfl
@[simp] theorem State.dropRand_key (s : State) : s.dropRand.key = s.key := by unfold State.dropRand; split <;> rfl
@[simp] theorem State.dropRand_fault (s : State) : s.dropRand.fault = s.fault := by unfold State.dropRand; split <;> rfl
@[simp] theorem State.dropRand_halted (s : State) : s.dropRand.halted = s.halted := by unfold State.dropRand; split <;> rfl
@[simp] theorem State.dropRand_cfg (s : State) : s.dropRand.cfg = s.cfg := by unfold State.dropRand; split <;> rfl
@[simp] theorem State.dropRand_schedule (s : State) : s.dropRand.schedule = s.schedule := by unfold State.dropRand; split <;> rfl
@[simp] theorem State.dropRand_readV (s : State) (r : Nibble) : s.dropRand.readV r = s.readV r := by unfold State.dropRand; split <;> rfl
@[simp] theorem State.dropRand_readKey (s : State) (j : Nibble) : s.dropRand.readKey j = s.readKey j := by unfold State.dropRand; split <;> rfl

/-! `State.setVs` changes general registers alone. -/
@[simp] theorem State.setVs_mem (s : State) (k : Nat) (bs : List Byte) : (s.setVs k bs).mem = s.mem := by
  induction bs generalizing s k with
  | nil => rfl
  | cons b bs ih => simp [State.setVs, ih]
@[simp] theorem State.setVs_i (s : State) (k : Nat) (bs : List Byte) : (s.setVs k bs).i = s.i := by
  induction bs generalizing s k with
  | nil => rfl
  | cons b bs ih => simp [State.setVs, ih]
@[simp] theorem State.setVs_pc (s : State) (k : Nat) (bs : List Byte) : (s.setVs k bs).pc = s.pc := by
  induction bs generalizing s k with
  | nil => rfl
  | cons b bs ih => simp [State.setVs, ih]
@[simp] theorem State.setVs_stack (s : State) (k : Nat) (bs : List Byte) : (s.setVs k bs).stack = s.stack := by
  induction bs generalizing s k with
  | nil => rfl
  | cons b bs ih => simp [State.setVs, ih]
@[simp] theorem State.setVs_sp (s : State) (k : Nat) (bs : List Byte) : (s.setVs k bs).sp = s.sp := by
  induction bs generalizing s k with
  | nil => rfl
  | cons b bs ih => simp [State.setVs, ih]
@[simp] theorem State.setVs_dt (s : State) (k : Nat) (bs : List Byte) : (s.setVs k bs).dt = s.dt := by
  induction bs generalizing s k with
  | nil => rfl
  | cons b bs ih => simp [State.setVs, ih]
@[simp] theorem State.setVs_st (s : State) (k : Nat) (bs : List Byte) : (s.setVs k bs).st = s.st := by
  induction bs generalizing s k with
  | nil => rfl
  | cons b bs ih => simp [State.setVs, ih]
@[simp] theorem State.setVs_disp (s : State) (k : Nat) (bs : List Byte) : (s.setVs k bs).disp = s.disp := by
  induction bs generalizing s k with
  | nil => rfl
  | cons b bs ih => simp [State.setVs, ih]
@[simp] theorem State.setVs_key (s : State) (k : Nat) (bs : List Byte) : (s.setVs k bs).key = s.key := by
  induction bs generalizing s k with
  | nil => rfl
  | cons b bs ih => simp [State.setVs, ih]
@[simp] theorem State.setVs_fault (s : State) (k : Nat) (bs : List Byte) : (s.setVs k bs).fault = s.fault := by
  induction bs generalizing s k with
  | nil => rfl
  | cons b bs ih => simp [State.setVs, ih]
@[simp] theorem State.setVs_halted (s : State) (k : Nat) (bs : List Byte) : (s.setVs k bs).halted = s.halted := by
  induction bs generalizing s k with
  | nil => rfl
  | cons b bs ih => simp [State.setVs, ih]
@[simp] theorem State.setVs_cfg (s : State) (k : Nat) (bs : List Byte) : (s.setVs k bs).cfg = s.cfg := by
  induction bs generalizing s k with
  | nil => rfl
  | cons b bs ih => simp [State.setVs, ih]
@[simp] theorem State.setVs_schedule (s : State) (k : Nat) (bs : List Byte) : (s.setVs k bs).schedule = s.schedule := by
  induction bs generalizing s k with
  | nil => rfl
  | cons b bs ih => simp [State.setVs, ih]
@[simp] theorem State.setVs_randIn (s : State) (k : Nat) (bs : List Byte) : (s.setVs k bs).randIn = s.randIn := by
  induction bs generalizing s k with
  | nil => rfl
  | cons b bs ih => simp [State.setVs, ih]
@[simp] theorem State.setVs_draws (s : State) (k : Nat) (bs : List Byte) : (s.setVs k bs).draws = s.draws := by
  induction bs generalizing s k with
  | nil => rfl
  | cons b bs ih => simp [State.setVs, ih]
@[simp] theorem State.setVs_stackEntry (s : State) (k : Nat) (bs : List Byte) (j : Fin 16) : (s.setVs k bs).stackEntry j = s.stackEntry j := by
  unfold State.stackEntry; simp
@[simp] theorem State.setVs_readKey (s : State) (k : Nat) (bs : List Byte) (j : Nibble) : (s.setVs k bs).readKey j = s.readKey j := by
  unfold State.readKey; simp

end Sys2Proof.Machine
end

