-- ==== Sys2Proof/Laws/Registers.lean ====
section
/-! SUPPORT. The spec lemmas of the register, stack and flag operations: what each of them can do, said once. -/

namespace Sys2Proof.Machine

@[simp] theorem State.readV_setV_same (s : State) (x : Nibble) (b : Byte) : (s.setV x b).readV x = b := by
  simp [State.setV, State.readV]

theorem State.readV_setV_other (s : State) (b : Byte) {x r : Nibble} (h : r ≠ x) : (s.setV x b).readV r = s.readV r := by
  have : x.toNat ≠ r.toNat := fun e => h (BitVec.eq_of_toNat_eq e).symm
  simp [State.setV, State.readV, this]

/-- A register read after a register write (10_state.md R31: no register is hardwired). -/
theorem State.readV_setV (s : State) (x r : Nibble) (b : Byte) :
    (s.setV x b).readV r = if r = x then b else s.readV r := by
  by_cases h : r = x
  · simp [h]
  · simp [h, State.readV_setV_other]

theorem State.readKey_setKey (s : State) (k j : Nibble) (p : Bool) :
    (s.setKey k p).readKey j = if j = k then p else s.readKey j := by
  by_cases h : j = k
  · simp [State.setKey, State.readKey, h]
  · have : k.toNat ≠ j.toNat := fun e => h (BitVec.eq_of_toNat_eq e).symm
    simp [State.setKey, State.readKey, this, h]

/-- Two register files that read alike are equal. -/
theorem State.v_ext {s t : State} (h : ∀ r, t.readV r = s.readV r) : t.v = s.v := by
  apply Vector.ext
  intro n hn
  have := h (BitVec.ofNat 4 n)
  simpa [State.readV, Nat.mod_eq_of_lt hn] using this

@[simp] theorem State.writeResult_readV (s : State) (x r : Nibble) (b : Byte) :
    (s.writeResult x b).readV r = if r = x then b else s.readV r := by
  simp [State.writeResult, State.readV_setV]

/-- The flag is written last: with x = VF the result is lost (10_state.md R34). -/
@[simp] theorem State.writeResultAndFlag_readV (s : State) (x r : Nibble) (b : Byte) (f : Bool) :
    (s.writeResultAndFlag x b f).readV r = if r = flagReg then flagByte f else if r = x then b else s.readV r := by
  simp [State.writeResultAndFlag, State.readV_setV]

/-- The registers after a run of writes that starts at V[k]. -/
theorem State.setVs_readV (s : State) (k : Nat) (bs : List Byte) (hk : k + bs.length ≤ 16) (r : Nibble) :
    (s.setVs k bs).readV r =
      if h : k ≤ r.toNat ∧ r.toNat < k + bs.length then bs[r.toNat - k]'(by omega) else s.readV r := by
  induction bs generalizing s k with
  | nil =>
    simp only [List.length_nil, Nat.add_zero] at *
    rw [dif_neg (by omega)]
    rfl
  | cons b bs ih =>
    simp only [List.length_cons] at hk
    rw [State.setVs, ih _ _ (by omega)]
    have hkm : (BitVec.ofNat 4 k).toNat = k := by simp; omega
    by_cases h1 : k + 1 ≤ r.toNat ∧ r.toNat < k + 1 + bs.length
    · have e : r.toNat - k = (r.toNat - (k + 1)) + 1 := by omega
      rw [dif_pos h1, dif_pos (by simp only [List.length_cons]; omega)]
      simp [e]
    · rw [dif_neg h1]
      by_cases h2 : r = BitVec.ofNat 4 k
      · have hr : r.toNat = k := by rw [h2, hkm]
        rw [dif_pos (by simp only [List.length_cons]; omega)]
        rw [show (s.setV (BitVec.ofNat 4 k) b).readV r = b by rw [h2, State.readV_setV_same]]
        simp only [hr, Nat.sub_self, List.getElem_cons_zero]
      · have hr : r.toNat ≠ k := fun e => h2 (BitVec.eq_of_toNat_eq (by rw [hkm, e]))
        rw [State.readV_setV_other _ _ h2, dif_neg (by simp only [List.length_cons]; omega)]

@[simp] theorem State.readVs_length (s : State) (x : Nibble) : (s.readVs x).length = x.toNat + 1 := by
  simp [State.readVs]

theorem State.readVs_getElem (s : State) (x : Nibble) (k : Nat) (h : k < (s.readVs x).length) :
    (s.readVs x)[k] = s.readV (BitVec.ofNat 4 k) := by
  simp [State.readVs]

@[simp] theorem bcdDigits_length (v : Byte) : (bcdDigits v).length = 3 := rfl

/-- What `Push` can do (10_state.md R36). -/
theorem State.push_cases (s : State) (w : Word) :
    (s.push w = none ∧ s.sp.val = 16) ∨
    (∃ h : s.sp.val < 16, s.push w =
      some (s.setStack (s.stack.set s.sp.val w h) ⟨s.sp.val + 1, by omega⟩)) := by
  unfold State.push
  by_cases h : s.sp.val < 16
  · exact .inr ⟨h, by rw [dif_pos h]⟩
  · exact .inl ⟨by rw [dif_neg h], by have := s.sp.isLt; omega⟩

/-- What `Pop` can do (10_state.md R36). -/
theorem State.pop_cases (s : State) :
    (s.pop = none ∧ s.sp.val = 0) ∨
    (∃ h : 0 < s.sp.val, s.pop =
      some (s.stackEntry ⟨s.sp.val - 1, by omega⟩, s.setStack s.stack ⟨s.sp.val - 1, by omega⟩)) := by
  unfold State.pop
  by_cases h : 0 < s.sp.val
  · exact .inr ⟨h, by rw [dif_pos h]⟩
  · exact .inl ⟨by rw [dif_neg h], by omega⟩

/-- A stack entry after the write of one. -/
theorem State.stackEntry_setStack_set (s : State) (w : Word) (n : Nat) (hn : n < 16) (sp : Fin 17) (j : Fin 16) :
    (s.setStack (s.stack.set n w hn) sp).stackEntry j = if j.val = n then w else s.stackEntry j := by
  by_cases h : j.val = n
  · simp [State.setStack, State.stackEntry, h]
  · simp [State.setStack, State.stackEntry, h, Ne.symm h]

/-- The random port's two cases (41_alu.md R153). -/
theorem State.nextRand_cases (s : State) :
    (s.randIn = [] ∧ s.nextRand = Config.rand8 s.draws) ∨ (∃ b bs, s.randIn = b :: bs ∧ s.nextRand = b) := by
  unfold State.nextRand
  cases h : s.randIn with
  | nil => exact .inl ⟨rfl, rfl⟩
  | cons b bs => exact .inr ⟨b, bs, rfl, rfl⟩

/-- The lowest pressed key, when one is found (44_timers_keys.md R214). -/
theorem lowestPressed_some {s : State} {k : Nibble} (h : lowestPressed s = some k) :
    s.readKey k = true ∧ ∀ j : Nibble, j.toNat < k.toNat → s.readKey j = false := by
  unfold lowestPressed at h
  rw [List.find?_map, Option.map_eq_some_iff] at h
  obtain ⟨n, hn, rfl⟩ := h
  have hp := List.find?_some hn
  have hmem := List.mem_of_find?_eq_some hn
  have hn16 : n < 16 := by simpa using hmem
  refine ⟨hp, fun j hj => ?_⟩
  have hnn : (BitVec.ofNat 4 n).toNat = n := by simp; omega
  rw [hnn] at hj
  have := (List.find?_range_eq_some.1 hn).2.2 j.toNat hj
  simpa using this

/-- No key is found only when none is pressed (R214). -/
theorem lowestPressed_none {s : State} : lowestPressed s = none ↔ ∀ k : Nibble, s.readKey k = false := by
  unfold lowestPressed
  rw [List.find?_eq_none]
  constructor
  · intro h k
    have := h k (List.mem_map.2 ⟨k.toNat, by simpa using k.isLt, by simp⟩)
    simpa using this
  · intro h k _
    simp [h k]

end Sys2Proof.Machine
end

