-- ==== Sys2Proof/Laws/Step.lean ====
section
/-! SUPPORT. What one step can do, said once: which agent moved, and what a cycle was. -/

namespace Sys2Proof.Machine

/-- A step is a cycle when nothing is scheduled, and else the step of the agent that is next. -/
theorem step_cases {s : State} {o : Host.Outcome State Fault Refusal} (h : step s = o) :
    (s.schedule = [] ∧ cycle s = o) ∨ (∃ e rest, s.schedule = e :: rest ∧ agentStep e (s.setSchedule rest) = o) := by
  unfold step nextStep at h
  cases hs : s.schedule with
  | nil => rw [hs] at h; exact .inl ⟨rfl, h⟩
  | cons e rest => rw [hs] at h; exact .inr ⟨e, rest, rfl, h⟩

/-- A requested cycle is ignored, or faults at its fetch, or runs the decoded instruction (40_control_flow.md R110, R111). -/
theorem cycle_cases (s : State) :
    (s.halted = true ∧ cycle s = .next s) ∨
    (s.halted = false ∧ fetch s = none ∧ cycle s = .next (s.takeFault .addressFault none)) ∨
    (∃ w, s.halted = false ∧ fetch s = some w ∧ cycle s = exec (decode w) s) := by
  unfold cycle
  cases hh : s.halted
  · cases hf : fetch s with
    | none => simp
    | some w => exact .inr (.inr ⟨w, rfl, rfl, by simp⟩)
  · simp

theorem step_of_schedule_nil {s : State} (h : s.schedule = []) : step s = cycle s := by
  simp [step, nextStep, h]

theorem step_of_schedule_cons {s : State} {e : HostEvent} {rest : List HostEvent} (h : s.schedule = e :: rest) :
    step s = agentStep e (s.setSchedule rest) := by
  simp [step, nextStep, h]

/-- A run of k + 1 steps whose first step goes to t is the run of k steps from t. -/
theorem run_succ (k : Nat) {s t : State} (h : step s = .next t) :
    Host.Core.run Sys2Proof.core (k + 1) s = Host.Core.run Sys2Proof.core k t := by
  have general : ∀ (M : Host.Core) (s t : M.State), M.step s = .next t → M.run (k + 1) s = M.run k t := by
    intro M s t h
    rw [Host.Core.run, h]
  exact general Sys2Proof.core s t h

end Sys2Proof.Machine
end

