-- ==== Sys2Proof/Tests/Slice0.lean ====
section
/-! SUPPORT. Small tests. The expected results are the spec's own vectors (95_test_vectors.md; each test names its row) and words
written out from the encoding tables (30_encoding.md R96-R102); the last part shows states that meet the obligations' hypotheses. -/

namespace Sys2Proof.Tests

open Sys2Proof Sys2Proof.Machine

/-- The next state of an outcome, if it is one. -/
def nextOf (o : Host.Outcome State Fault Refusal) : Option State :=
  match o with
  | .next t => some t
  | .fault _ => none
  | .refused _ => none

/-- One step from s with the word w placed where it fetches. -/
def after (w : Nat) (s : State) : Option State := nextOf (step (s.withFetchWord 16 w))

/-- The reset state with some registers and I set. -/
def regs (vs : List (Nibble × Byte)) (i : Word := 0) : State :=
  vs.foldl (fun s p => s.setV p.1 p.2) (State.reset.setI i)

/-- The state with the byte list stored at a. -/
def bytesAt (a : Nat) (bs : List Byte) (s : State) : State := s.setMem (s.mem.writeBytes a bs)

/-- The state with keys pressed. -/
def pressing (ks : List Nibble) (s : State) : State := ks.foldl (fun s k => s.setKey k true) s

/-- The state under other launch parameters. -/
def under (c : Config) (s : State) : State := { s with cfg := c }

/-- The display with these pixels on, as (px, py), and no others. -/
def lit (ps : List (Fin 64 × Fin 32)) : Display := ps.foldl (fun d p => d.put p.1 p.2 true) Display.blank

/-- A latched fault, and whether the core is halted. -/
def latch (s : State) : FaultLatch × Bool := (s.fault, s.halted)

/-! ## WellFormed refuses ill-formed terms -/

theorem test_sys_0E0_ill_formed : (Instr.sys 0x0E0).wellFormed = false := by decide
theorem test_sys_0EE_ill_formed : (Instr.sys 0x0EE).wellFormed = false := by decide
theorem test_invalid_operation_ill_formed : (Instr.invalid 0x00E0).wellFormed = false := by decide
theorem test_invalid_8xy7_ill_formed : (Instr.invalid 0x8127).wellFormed = false := by decide
theorem test_sys_well_formed : (Instr.sys 0x0E1).wellFormed = true ∧ (Instr.invalid 0x8128).wellFormed = true := by decide

/-! ## Decoding, one word or more of each constructor (L1 S2-S5, L2.1) -/

theorem test_decode_family0 : decode 0x00E0 = .cls ∧ decode 0x00EE = .ret ∧ decode 0x0000 = .sys 0x000 ∧
    decode 0x00E1 = .sys 0x0E1 ∧ decode 0x0FFF = .sys 0xFFF := by decide
theorem test_decode_jumps : decode 0x1ABC = .jp 0xABC ∧ decode 0x2FFF = .call 0xFFF ∧ decode 0xB123 = .jpV0 0x123 := by decide
theorem test_decode_skips : decode 0x3F01 = .seImm 0xF 0x01 ∧ decode 0x4000 = .sneImm 0 0 ∧ decode 0x5120 = .seReg 1 2 ∧
    decode 0x9AB0 = .sneReg 0xA 0xB := by decide
theorem test_decode_immediates : decode 0x6A11 = .ldImm 0xA 0x11 ∧ decode 0x7FFF = .addImm 0xF 0xFF ∧
    decode 0xA123 = .ldI 0x123 ∧ decode 0xC3FF = .rnd 3 0xFF := by decide
theorem test_decode_family8 : decode 0x8AB0 = .ldReg 0xA 0xB ∧ decode 0x8AB1 = .orReg 0xA 0xB ∧ decode 0x8AB2 = .andReg 0xA 0xB ∧
    decode 0x8AB3 = .xorReg 0xA 0xB ∧ decode 0x8AB4 = .addReg 0xA 0xB ∧ decode 0x8AB5 = .sub 0xA 0xB ∧
    decode 0x8AB6 = .shr 0xA 0xB ∧ decode 0x8AB7 = .subn 0xA 0xB ∧ decode 0x8ABE = .shl 0xA 0xB := by decide
theorem test_decode_draw_and_keys : decode 0xD012 = .drw 0 1 2 ∧ decode 0xD010 = .drw 0 1 0 ∧ decode 0xE09E = .skp 0 ∧
    decode 0xE0A1 = .sknp 0 := by decide
theorem test_decode_familyF : decode 0xF107 = .ldVxDt 1 ∧ decode 0xF20A = .ldVxK 2 ∧ decode 0xF315 = .ldDtVx 3 ∧
    decode 0xF418 = .ldStVx 4 ∧ decode 0xF51E = .addI 5 ∧ decode 0xF629 = .ldF 6 ∧ decode 0xF733 = .ldB 7 ∧
    decode 0xF855 = .ldMemVx 8 ∧ decode 0xF965 = .ldVxMem 9 := by decide
theorem test_decode_invalid : decode 0x5121 = .invalid 0x5121 ∧ decode 0x512F = .invalid 0x512F ∧ decode 0x8AB8 = .invalid 0x8AB8 ∧
    decode 0x8ABD = .invalid 0x8ABD ∧ decode 0x8ABF = .invalid 0x8ABF ∧ decode 0x9AB1 = .invalid 0x9AB1 ∧
    decode 0xE09F = .invalid 0xE09F ∧ decode 0xE0A0 = .invalid 0xE0A0 ∧ decode 0xF008 = .invalid 0xF008 ∧
    decode 0xF066 = .invalid 0xF066 ∧ decode 0xFFFF = .invalid 0xFFFF := by decide
theorem test_decode_bytes_big_endian : decodeTableWord 16 0x1ABC = some (.jp 0xABC) ∧
    (decodeBytes [0x1A, 0xBC, 0x77]).toOption = some (.jp 0xABC, [0x77]) ∧ (decodeBytes [0x1A]).toOption = none := by decide

/-! ## Reset, fetch and the program counter -/

/-- The reset state is a launch with the default font and an empty ROM. -/
theorem test_reset_is_a_launch : State.reset.resetWith Config.defaultFont [] = State.reset := by
  simp only [State.resetWith, State.reset, State.mk.injEq, and_self, and_true]
  rfl
theorem test_reset_font : (State.reset.mem.read 0x050, State.reset.mem.read 0x09F, State.reset.mem.read 0x0A0,
    State.reset.mem.read 0x200) = (0xF0, 0x80, 0, 0) := by decide
/-- P6: from reset with nothing placed, the first word is 0x0000, SYS 000. -/
theorem test_empty_memory : (nextOf (step State.reset)).map latch =
    some (⟨some .unimplementedOpcode, 0x200, 0x0000, true⟩, true) := by decide
/-- FE1, FE2: the last legal address, and the one after it. -/
theorem test_fetch_top : (after 0x1200 (State.reset.setPc 0xFFE)).map (·.pc) = some 0x200 ∧
    (nextOf (step (State.reset.setPc 0x1000))).map latch = some (⟨some .addressFault, 0x1000, 0, false⟩, true) := by decide
/-- FE3, FE5, FE7: low, odd, and past the end under `bounds_only`. -/
theorem test_fetch_faults : (nextOf (step (State.reset.setPc 0x1FE))).map latch = some (⟨some .addressFault, 0x1FE, 0, false⟩, true) ∧
    (nextOf (step (State.reset.setPc 0x201))).map latch = some (⟨some .addressFault, 0x201, 0, false⟩, true) ∧
    (nextOf (step (under { Config.default with fetchCheck := .boundsOnly } (State.reset.setPc 0xFFF)))).map latch =
      some (⟨some .addressFault, 0xFFF, 0, false⟩, true) := by
  decide
/-- FE6: an odd PC under `bounds_only`, big-endian. -/
theorem test_fetch_odd : (nextOf (step (bytesAt 0x201 [0x12, 0x00]
    (under { Config.default with fetchCheck := .boundsOnly } (State.reset.setPc 0x201))))).map (·.pc) = some 0x200 := by decide
theorem test_fetch_big_endian : fetch (bytesAt 0x200 [0xAB, 0xCD] State.reset) = some 0xABCD := by decide

/-! ## Control transfer (L2.3) -/

theorem test_sys_fault : (after 0x0123 State.reset).map latch = some (⟨some .unimplementedOpcode, 0x200, 0x0123, true⟩, true) := by decide
theorem test_sys_nop : (after 0x0123 (under { Config.default with sysMode := .nop } State.reset)).map
    (fun t => (t.pc, t.halted)) = some (0x202, false) := by decide
theorem test_jp : (after 0x1ABC State.reset).map (·.pc) = some 0xABC := by decide
theorem test_call : (after 0x2210 (State.reset.setPc 0x204)).map (fun t => (t.stackEntry 0, t.sp, t.pc)) =
    some (0x206, 1, 0x210) := by decide
theorem test_call_full : (after 0x2210 (State.reset.setStack State.reset.stack 16)).map (fun t => (latch t, t.sp, t.pc)) =
    some ((⟨some .stackOverflow, 0x200, 0x2210, true⟩, true), 16, 0x200) := by decide
theorem test_ret : (after 0x00EE ((State.reset.setPc 0x210).setStack (State.reset.stack.set 0 0x206) 1)).map
    (fun t => (t.stackEntry 0, t.sp, t.pc)) = some (0x206, 0, 0x206) := by decide
theorem test_ret_empty : (after 0x00EE State.reset).map (fun t => (latch t, t.sp, t.pc)) =
    some ((⟨some .stackUnderflow, 0x200, 0x00EE, true⟩, true), 0, 0x200) := by decide
theorem test_se_imm : (after 0x3342 (regs [(3, 0x42)])).map (·.pc) = some 0x204 ∧
    (after 0x3343 (regs [(3, 0x42)])).map (·.pc) = some 0x202 := by decide
theorem test_sne_imm : (after 0x4342 (regs [(3, 0x42)])).map (·.pc) = some 0x202 ∧
    (after 0x4300 (regs [(3, 0x42)])).map (·.pc) = some 0x204 := by decide
theorem test_se_reg : (after 0x5120 (regs [(1, 7), (2, 7)])).map (·.pc) = some 0x204 ∧
    (after 0x5120 (regs [(1, 7), (2, 8)])).map (·.pc) = some 0x202 := by decide
theorem test_sne_reg : (after 0x9120 (regs [(1, 7), (2, 8)])).map (·.pc) = some 0x204 ∧
    (after 0x9110 State.reset).map (·.pc) = some 0x202 := by decide
theorem test_jp_v0 : (after 0xBFFF (regs [(0, 0xFF)])).map (·.pc) = some 0x10FE ∧
    (after 0xB300 (regs [(5, 0x10)])).map (·.pc) = some 0x300 := by decide
theorem test_invalid : (after 0x5121 (regs [(1, 7), (2, 7)])).map (fun t => (latch t, t.pc)) =
    some ((⟨some .decodeError, 0x200, 0x5121, true⟩, true), 0x200) := by decide

/-! ## Registers and ALU (L2.4) -/

/-- V1, VF and the PC. -/
def v1f (s : State) : Byte × Byte × Word := (s.readV 1, s.readV 0xF, s.pc)

theorem test_ld_imm : (after 0x6A11 State.reset).map (·.readV 0xA) = some 0x11 ∧
    (after 0x6F07 State.reset).map (·.readV 0xF) = some 0x07 := by decide
theorem test_add_imm : (after 0x71F0 (regs [(1, 0x10), (0xF, 0x55)])).map v1f = some (0x00, 0x55, 0x202) ∧
    (after 0x7F01 (regs [(0xF, 0xFF)])).map (·.readV 0xF) = some 0x00 := by decide
theorem test_ld_reg : (after 0x8150 (regs [(5, 0x3C)])).map v1f = some (0x3C, 0, 0x202) := by decide
theorem test_or : (after 0x8121 (regs [(1, 0xF0), (2, 0x0F), (0xF, 0x01)])).map v1f = some (0xFF, 0x01, 0x202) := by decide
theorem test_and : (after 0x8122 (regs [(1, 0xF3), (2, 0x3F), (0xF, 0x01)])).map v1f = some (0x33, 0x01, 0x202) := by decide
theorem test_xor : (after 0x8123 (regs [(1, 0xFF), (2, 0x0F)])).map v1f = some (0xF0, 0, 0x202) := by decide
/-- S6, AL14. -/
theorem test_add_reg : (after 0x8124 (regs [(1, 0xFF), (2, 0x02)])).map v1f = some (0x01, 1, 0x202) ∧
    (after 0x8124 (regs [(1, 0xFF), (2, 0x00)])).map v1f = some (0xFF, 0, 0x202) := by decide
/-- AL17, AL18: VF as destination, and as source. -/
theorem test_add_reg_vf : (after 0x8F14 (regs [(0xF, 0x10), (1, 0xF5)])).map (·.readV 0xF) = some 1 ∧
    (after 0x81F4 (regs [(1, 0x01), (0xF, 0xFF)])).map v1f = some (0x00, 1, 0x202) := by decide
/-- S8, AL21. -/
theorem test_sub : (after 0x8125 (regs [(1, 0x05), (2, 0x09)])).map v1f = some (0xFC, 0, 0x202) ∧
    (after 0x8125 (regs [(1, 0x07), (2, 0x07)])).map v1f = some (0x00, 1, 0x202) := by decide
theorem test_sub_vf : (after 0x8F15 (regs [(0xF, 0x05), (1, 0x09)])).map (·.readV 0xF) = some 0 := by decide
theorem test_shr : (after 0x8126 (regs [(1, 0x05), (2, 0xFE)])).map v1f = some (0x02, 1, 0x202) ∧
    (after 0x8F06 (regs [(0xF, 0x03)])).map (·.readV 0xF) = some 1 := by decide
theorem test_shr_vy : (after 0x8126 (under { Config.default with shiftSource := .vy } (regs [(2, 0x05)]))).map
    (fun t => (v1f t, t.readV 2)) = some ((0x02, 1, 0x202), 0x05) := by decide
theorem test_subn : (after 0x8127 (regs [(1, 0x05), (2, 0x09)])).map v1f = some (0x04, 1, 0x202) ∧
    (after 0x8127 (regs [(1, 0x09), (2, 0x05)])).map v1f = some (0xFC, 0, 0x202) := by decide
theorem test_shl : (after 0x810E (regs [(1, 0x81)])).map v1f = some (0x02, 1, 0x202) ∧
    (after 0x810E (regs [(1, 0x7F)])).map v1f = some (0xFE, 0, 0x202) := by decide
theorem test_shl_vy : (after 0x812E (under { Config.default with shiftSource := .vy } (regs [(2, 0x81)]))).map v1f =
    some (0x02, 1, 0x202) := by decide
/-- AL38, with the drawn byte standing at the port. -/
theorem test_rnd : (after 0xC30F { State.reset with randIn := [0xB7, 0x11] }).map (fun t => (t.readV 3, t.randIn, t.draws)) =
    some (0x07, [0x11], 0) := by decide

/-! ## Index and memory (L2.5) -/

theorem test_ld_i : (after 0xA300 State.reset).map (·.i) = some 0x300 := by decide
theorem test_add_i : (after 0xF01E (regs [(0, 0x01), (0xF, 0x33)] 0x0FFF)).map (fun t => (t.i, t.readV 0xF)) = some (0x1000, 0x33) ∧
    (after 0xF01E (regs [(0, 0x02)] 0xFFFF)).map (·.i) = some 0x0001 := by decide
theorem test_ld_f : (after 0xF029 (regs [(0, 0x0A)])).map (·.i) = some 0x082 ∧
    (after 0xF029 (regs [(0, 0x1F)])).map (·.i) = some 0x09B := by decide
theorem test_bcd : (after 0xF033 (regs [(0, 255)] 0xFFD)).map (fun t => (t.mem, t.i)) =
    some ([(0x200, 0xF0), (0x201, 0x33), (0xFFD, 2), (0xFFE, 5), (0xFFF, 5)], 0xFFD) := by decide
theorem test_bcd_fault : (after 0xF033 (regs [(0, 255)] 0xFFE)).map (fun t => (latch t, t.mem.read 0xFFE, t.mem.read 0xFFF)) =
    some ((⟨some .addressFault, 0x200, 0xF033, true⟩, true), 0, 0) := by decide
theorem test_store : (after 0xF255 (regs [(0, 1), (1, 2), (2, 3), (3, 9)] 0x400)).map (fun t => (t.mem.readBytes 0x400 4, t.i)) =
    some ([1, 2, 3, 0], 0x400) := by decide
/-- MT16, MT17. -/
theorem test_store_fault : (after 0xF155 (regs [(0, 9)] 0xFFF)).map (fun t => (latch t, t.mem.read 0xFFF)) =
      some ((⟨some .addressFault, 0x200, 0xF155, true⟩, true), 0) ∧
    (after 0xF055 (regs [] 0xFFFF)).map latch = some (⟨some .addressFault, 0x200, 0xF055, true⟩, true) := by
  decide
theorem test_load : (after 0xF265 (bytesAt 0x300 [2, 5, 4, 7] (regs [(3, 0x11)] 0x300))).map
    (fun t => ((List.range 4).map fun k => t.readV (BitVec.ofNat 4 k), t.i)) = some ([2, 5, 4, 0x11], 0x300) := by decide
theorem test_load_fault : (after 0xFF65 (regs [(0, 3)] 0xFF1)).map (fun t => (latch t, t.readV 0)) =
    some ((⟨some .addressFault, 0x200, 0xFF65, true⟩, true), 3) := by decide
/-- The font region is plain memory (MT24), and writing a reset byte back restores the canonical form. -/
theorem test_memory_canonical : Memory.read (Memory.write [] 0x050 0xAB) 0x050 = 0xAB ∧
    (Memory.write [] 0x050 0xAB).write 0x050 0xF0 = [] := by decide

/-! ## Display (L2.6) -/

/-- DS6, DS7, DS12: wrapping, clipping, and the origin read before VF is written. -/
theorem test_drw_pixels : (after 0xD011 (bytesAt 0x300 [0xFF]
      (under { Config.default with wrapSprites := true } (regs [(0, 0x3C)] 0x300)))).map (·.disp) =
      some (lit [(0, 0), (1, 0), (2, 0), (3, 0), (60, 0), (61, 0), (62, 0), (63, 0)]) ∧
    (after 0xD012 (bytesAt 0x300 [0x80, 0x80] (regs [(1, 0x1F)] 0x300))).map (·.disp) = some (lit [(0, 31)]) ∧
    (after 0xDF11 (bytesAt 0x300 [0x80] (regs [(0xF, 0x08)] 0x300))).map (fun t => (t.disp, t.readV 0xF)) =
      some (lit [(8, 0)], 0) := by decide
/-- DS2, DS3, DS13: the second draw's collision, n = 0, and a sprite past the end of memory. -/
theorem test_drw_flag_and_range :
    ((after 0xD012 (bytesAt 0x300 [0xF0, 0x90] (regs [] 0x300))).bind (after 0xD012)).map (fun t => (t.disp, t.readV 0xF)) =
      some (Display.blank, 1) ∧
    (after 0xD010 (regs [(0xF, 0x55)] 0xFFFF)).map (fun t => (t.readV 0xF, t.halted)) = some (0, false) ∧
    (after 0xD012 (regs [(0xF, 0x55)] 0xFFF)).map (fun t => (latch t, t.readV 0xF)) =
      some ((⟨some .addressFault, 0x200, 0xD012, true⟩, true), 0x55) := by decide
/-- DS15. -/
theorem test_cls : (after 0x00E0 ((regs [(0xF, 0x77)]).setDisp (Vector.replicate 32 (Vector.replicate 64 true)))).map
    (fun t => (t.disp, t.readV 0xF)) = some (Display.blank, 0x77) ∧ dispUpdated (State.reset.withFetchWord 16 0x00E0) = true := by decide

/-! ## Keys and timers (L2.7) -/

theorem test_skp : (after 0xE19E (pressing [5] (regs [(1, 5)]))).map (·.pc) = some 0x204 ∧
    (after 0xE19E (regs [(1, 5)])).map (·.pc) = some 0x202 := by decide
theorem test_sknp : (after 0xE1A1 (pressing [5] (regs [(1, 5)]))).map (·.pc) = some 0x202 ∧
    (after 0xE1A1 (regs [(1, 5)])).map (·.pc) = some 0x204 := by decide
/-- KT5, KT6. -/
theorem test_key_index : (after 0xE19E (pressing [5] (regs [(1, 0x15)]))).map (·.pc) = some 0x204 ∧
    (after 0xE19E (pressing [5] (under { Config.default with keyIndexMode := .fault } (regs [(1, 0x15)])))).map latch =
      some (⟨some .addressFault, 0x200, 0xE19E, true⟩, true) := by decide
/-- KT7, KT8. -/
theorem test_ld_key : (after 0xF00A (regs [(0, 0x33)])).map (fun t => (t.readV 0, t.pc)) = some (0x33, 0x200) ∧
    (after 0xF00A (pressing [9, 3] State.reset)).map (fun t => (t.readV 0, t.pc)) = some (3, 0x202) := by decide
theorem test_ld_vx_dt : (after 0xF307 (State.reset.setDt 0x3C)).map (·.readV 3) = some 0x3C := by decide
theorem test_ld_dt_vx : (after 0xF015 (regs [(0, 5)])).map (fun t => (t.dt, (State.tick^[5] t).dt, (State.tick^[6] t).dt)) =
    some (5, 0, 0) := by decide
theorem test_ld_st_vx : (after 0xF218 (regs [(2, 1)])).map (fun t => (t.st, soundOn t, soundOn t.tick)) = some (1, true, false) ∧
    (after 0xF218 ((regs []).setSt 9)).map (fun t => (t.st, soundOn t)) = some (0, false) := by decide
/-- KT14, KT17: a tick takes both timers, and runs while the core is halted. -/
theorem test_tick : (nextOf (step { (State.reset.setSt 3) with schedule := [.tick] })).map (fun t => (t.dt, t.st)) = some (0, 2) ∧
    (nextOf (step { (State.reset.setDt 2) with halted := true, schedule := [.tick] })).map (·.dt) = some 1 := by decide

/-! ## States that meet the obligations' hypotheses -/

/-- A state whose latch holds a fault, in agreement with its halt bit. -/
def stopped : State := State.reset.takeFault .decodeError (some 0x5121)

/-- The reset state with its cycle requested by the schedule. -/
def requested (s : State) : State := { s with schedule := [.cycle] }

/-- StepRunsTheDecodedInstruction, both clauses, with an empty schedule and with a requested cycle. -/
theorem witness_step_runs :
    (CycleIsNext (State.reset.setPc 0x201) (State.reset.setPc 0x201) ∧ (State.reset.setPc 0x201).halted = false ∧
      fetchCheck .strict 0x201 = false) ∧
    (CycleIsNext (requested (bytesAt 0x200 [0x1A, 0xBC] State.reset)) (bytesAt 0x200 [0x1A, 0xBC] State.reset) ∧
      fetchCheck .strict 0x200 = true ∧ WordAt (bytesAt 0x200 [0x1A, 0xBC] State.reset).mem 0x200 0x1ABC ∧
      decode 0x1ABC = .jp 0xABC) :=
  ⟨⟨.inl ⟨rfl, rfl⟩, rfl, by decide⟩, ⟨.inr ⟨[], rfl, rfl⟩, by decide, by unfold WordAt; decide, by decide⟩⟩

theorem witness_well_formed : (Instr.sys 0xFFF).wellFormed = true ∧ (Instr.invalid 0xF000).wellFormed = true ∧
    (Instr.drw 0xF 0xF 0xF).wellFormed = true := by decide

theorem witness_bytes : (0x1ABC : Word).toNat = 256 * (0x1A : Byte).toNat + (0xBC : Byte).toNat := by decide

/-- FetchCheckDecidesTheFetch, at the boundaries of each clause. -/
theorem witness_fetch_check : fetchCheck .strict 0x200 = true ∧ fetchCheck .strict 0xFFE = true ∧ fetchCheck .strict 0x1FE = false ∧
    fetchCheck .strict 0xFFD = false ∧ fetchCheck .strict 0x1000 = false ∧ fetchCheck .boundsOnly 0x000 = true ∧
    fetchCheck .boundsOnly 0xFFE = true ∧ fetchCheck .boundsOnly 0xFFF = false := by decide

/-- HaltedCoreIgnoresCycles, OnlyResetLeavesHalt: a halted core whose cycle is next, and a halted core that a reset is about to restart. -/
theorem witness_halted : (CycleIsNext (requested stopped) stopped ∧ (requested stopped).halted = true) ∧
    (CycleIsNext stopped stopped ∧ ∃ t, step stopped = .next t) ∧
    (∃ t, step { stopped with schedule := [.reset Config.defaultFont []] } = .next t ∧ t.halted = false) :=
  ⟨⟨.inr ⟨[], rfl, rfl⟩, rfl⟩, ⟨.inl ⟨rfl, rfl⟩, _, rfl⟩, ⟨_, rfl, rfl⟩⟩

/-- FaultsArePrecise: a fetch that fails, and a word that faults. -/
theorem witness_faulting_cycle :
    ((State.reset.setPc 0x201).halted = false ∧ fetch (State.reset.setPc 0x201) = none ∧
      ∃ t, cycle (State.reset.setPc 0x201) = .next t ∧ t.halted = true) ∧
    (State.reset.halted = false ∧ fetch State.reset = some 0x0000 ∧ ∃ t, cycle State.reset = .next t ∧ t.halted = true) :=
  ⟨⟨rfl, by decide, _, rfl, rfl⟩, ⟨rfl, by decide, _, rfl, rfl⟩⟩

/-- OnlyTheNamedInstructionsFault, one witness for each cause. -/
theorem witness_each_cause :
    (∃ t, exec (.invalid 0x5121) State.reset = .next t ∧ t.halted = true) ∧
    (∃ t, exec (.drw 0 0 1) (State.reset.setI 0x1000) = .next t ∧ t.halted = true) ∧
    (∃ t, exec (.skp 0) (under { Config.default with keyIndexMode := .fault } (regs [(0, 16)])) = .next t ∧ t.halted = true) ∧
    (∃ t, exec (.call 0x300) (State.reset.setStack State.reset.stack 16) = .next t ∧ t.halted = true) ∧
    (∃ t, exec .ret State.reset = .next t ∧ t.halted = true) ∧
    (∃ t, exec (.sys 0x123) State.reset = .next t ∧ t.halted = true) :=
  ⟨⟨_, rfl, rfl⟩, ⟨_, rfl, rfl⟩, ⟨_, rfl, rfl⟩, ⟨_, rfl, rfl⟩, ⟨_, rfl, rfl⟩, ⟨_, rfl, rfl⟩⟩

/-- EveryStepCompletes: nothing scheduled, and a reset whose launch is described. -/
theorem witness_described_launch :
    (∀ font rom rest, State.reset.schedule = .reset font rom :: rest → font.length = 80 ∧ rom.length ≤ 3584) ∧
    (∀ font rom rest, [HostEvent.reset Config.defaultFont []] = .reset font rom :: rest → font.length = 80 ∧ rom.length ≤ 3584) := by
  constructor
  · intro font rom rest h
    cases h
  · intro font rom rest h
    cases h
    decide

/-- ResetLeavesTheTable and UndescribedLaunchIsRefused, at the boundaries of the two lengths. -/
theorem witness_launch_lengths : Config.defaultFont.length = 80 ∧ (List.replicate 3584 (0xFF : Byte)).length ≤ 3584 ∧
    (List.replicate 79 (0 : Byte)).length ≠ 80 ∧ (List.replicate 81 (0 : Byte)).length ≠ 80 ∧
    (List.replicate 3585 (0xFF : Byte)).length > 3584 := by
  refine ⟨by decide, ?_, ?_, ?_, ?_⟩ <;> simp only [List.length_replicate] <;> decide

/-- SysFaultsOrAdvances: the addresses beside the two excluded ones, in both modes. -/
theorem witness_sys : (0x0E1 : Imm12) ≠ 0x0E0 ∧ (0x0EF : Imm12) ≠ 0x0EE ∧ State.reset.cfg.sysMode = .fault ∧
    ((under { Config.default with sysMode := .nop } State.reset) : State).cfg.sysMode = .nop := by decide

/-- ReturnPopsThePc, CallPushesAndJumps, CallOnAFullStackOverflows: SP at 0, 1, 15 and 16. -/
theorem witness_stack_depths : State.reset.sp.val = (0 : Fin 16).val ∧
    (State.reset.setStack State.reset.stack 1).sp.val = (0 : Fin 16).val + 1 ∧
    (State.reset.setStack State.reset.stack 15).sp.val = (15 : Fin 16).val ∧
    (State.reset.setStack State.reset.stack 16).sp.val = (15 : Fin 16).val + 1 ∧
    (State.reset.setStack State.reset.stack 16).sp.val = 16 := by decide

theorem witness_call_completes : (State.reset.setStack State.reset.stack 15).sp.val < 16 ∧
    ∃ t, exec (.call 0x300) (State.reset.setStack State.reset.stack 15) = .next t := ⟨by decide, _, rfl⟩

theorem witness_register_fields : (1 : Nibble) ≠ 0 ∧ (0xE : Nibble) ≠ 0xF := by decide

/-- RandomIsMasked: a byte at the port, and none. -/
theorem witness_random_port : ({ State.reset with randIn := [7, 8] } : State).randIn = 7 :: [8] ∧ State.reset.randIn = [] := by decide

/-- BcdStoresThreeDigits, StoreRegistersToMemory, LoadRegistersFromMemory, DrawCompletesOrFaults: the last range inside memory and
the first outside it. -/
theorem witness_ranges : (regs [] 0xFFD).i.toNat + 2 ≤ 0xFFF ∧ (regs [] 0xFFE).i.toNat + 2 > 0xFFF ∧
    (regs [] 0xFF0).i.toNat + (0xF : Nibble).toNat ≤ 0xFFF ∧ (regs [] 0xFF1).i.toNat + (0xF : Nibble).toNat > 0xFFF ∧
    (regs [] 0xFFF).i.toNat + (0 : Nibble).toNat ≤ 0xFFF ∧ (regs [] 0x1000).i.toNat + (0 : Nibble).toNat > 0xFFF ∧
    (regs [] 0xFF1).i.toNat + (0xF : Nibble).toNat ≤ 0x1000 ∧
    ((0xF : Nibble) ≠ 0 ∧ (regs [] 0xFF2).i.toNat + (0xF : Nibble).toNat > 0x1000) := by decide

/-- StoredBytesAreFetchedNext. -/
theorem witness_stored_bytes : 1 ≤ (1 : Nibble).toNat ∧ (regs [(0, 0x12), (1, 0x08)] 0x202).i = State.reset.pc + 2 ∧
    (0x202 : Word).toNat + (1 : Nibble).toNat ≤ 0xFFF ∧ fetchCheck .strict (State.reset.pc + 2) = true ∧
    ∃ t, exec (.ldMemVx 1) (regs [(0, 0x12), (1, 0x08)] 0x202) = .next t := ⟨by decide, by decide, by decide, by decide, _, rfl⟩

/-- ClearScreenBlanksTheDisplay's last clause. -/
theorem witness_fetched_cls : (bytesAt 0x200 [0x00, 0xE0] State.reset).halted = false ∧
    fetch (bytesAt 0x200 [0x00, 0xE0] State.reset) = some 0x00E0 := by decide

/-- DrawInvertsTheCoveredPixels, DrawTwiceRestores: a draw whose origin registers survive it. -/
theorem witness_draw : (regs [] 0xFFF).i.toNat + (1 : Nibble).toNat ≤ 0x1000 ∧
    ∃ t, exec (.drw 0 1 1) (regs [] 0xFFF) = .next t ∧ (t.readV 0).toNat % 64 = ((regs [] 0xFFF).readV 0).toNat % 64 ∧
      (t.readV 1).toNat % 32 = ((regs [] 0xFFF).readV 1).toNat % 32 := ⟨by decide, _, rfl, by decide, by decide⟩

/-- A pixel that the sprite 80 at (0, 0) covers, and one it does not. -/
theorem witness_covered : DrawCovers 0 1 1 (bytesAt 0x300 [0x80] (regs [] 0x300)) 0 0 ∧
    ¬DrawCovers 0 1 1 (bytesAt 0x300 [0x80] (regs [] 0x300)) 1 0 := by
  constructor
  · exact ⟨0, 0, by decide, by decide, by decide, by decide, by decide⟩
  · rintro ⟨r, c, hr, hc, hb, _, hplace⟩
    obtain ⟨hx, -⟩ := hplace rfl
    have hr0 : r = 0 := by simpa using hr
    have hv : ((bytesAt 0x300 [0x80] (regs [] 0x300)).readV 0).toNat = 0 := by decide
    have hc1 : c = 1 := by
      rw [hv] at hx
      simpa using hx
    subst hr0 hc1
    revert hb
    decide

/-- KeySkipsSampleTheKey and KeySkipsAboveFifteen: Vx at 15 and at 16, in both modes. -/
theorem witness_key_numbers : ((regs [(1, 15)]).readV 1).toNat = (15 : Nibble).toNat ∧ ((regs [(1, 16)]).readV 1).toNat > 15 ∧
    (regs [(1, 16)]).cfg.keyIndexMode = .lowNibble ∧ (0 : Nibble).toNat = ((regs [(1, 16)]).readV 1).toNat % 16 ∧
    ({ Config.default with keyIndexMode := .fault } : Config).keyIndexMode = .fault := by decide

/-- KeyWaitStoresTheLowestKey: key 15 alone pressed, key 0 pressed, and none. -/
theorem witness_keypad : ((pressing [15] State.reset).readKey 15 = true ∧
      ∀ j : Nibble, j.toNat < 15 → (pressing [15] State.reset).readKey j = false) ∧
    (pressing [0] State.reset).readKey 0 = true ∧ ∀ k : Nibble, State.reset.readKey k = false := by decide

/-- TicksCountDown, TimerReadsBackAfterTicks, KeySourceWritesOneKey. -/
theorem witness_agents : ({ State.reset with schedule := [.tick, .tick, .cycle] } : State).schedule =
      List.replicate 2 .tick ++ [.cycle] ∧
    ({ State.reset with schedule := [.key 5 true] } : State).schedule = .key 5 true :: [] ∧
    ∃ t, exec (.ldDtVx 0) (regs [(0, 5)]) = .next t := ⟨rfl, rfl, _, rfl⟩

/-- StepKeepsTheInvariant, StepKeepsThePcBounds, ParametersNeverChange: the reset state meets the invariants and steps on. -/
theorem witness_invariants : State.reset.Inv ∧ State.reset.pcBounded ∧ ∃ t, step State.reset = .next t := by
  refine ⟨⟨by decide, by unfold State.latchConsistent; decide⟩, ?_, _, rfl⟩
  unfold State.pcBounded
  decide

/-- A state with stored bytes and a latched fault meets the invariants too. -/
theorem witness_invariants_stopped : (bytesAt 0x300 [1, 2] stopped).Inv ∧ (bytesAt 0x300 [1, 2] stopped).pcBounded := by
  refine ⟨⟨by decide, by unfold State.latchConsistent; decide⟩, ?_⟩
  unfold State.pcBounded
  decide

/-- CanonicalMemoriesAreExtensional. -/
theorem witness_canonical_memory : Memory.wf [(0x200, 0x12), (0xFFF, 0x01)] = true ∧ Memory.wf [(0x200, 0x00)] = false ∧
    Memory.wf [(0x050, 0xF0)] = false ∧ Memory.wf [(0x1000, 0x01)] = false ∧ Memory.wf [(0x201, 1), (0x200, 1)] = false := by decide

/-- InstructionsWriteOnlyTheirOwnState, clause by clause: each part does change somewhere. -/
theorem witness_own_state :
    (∃ t, exec (.ldI 0x300) State.reset = .next t ∧ t.i ≠ State.reset.i) ∧
    (∃ t, exec (.ldB 0) (regs [(0, 255)] 0x300) = .next t ∧ t.mem ≠ (regs [(0, 255)] 0x300).mem) ∧
    (∃ t, exec (.call 0x300) State.reset = .next t ∧ t.sp ≠ State.reset.sp ∧ t.stack ≠ State.reset.stack) ∧
    (∃ t, exec (.ldDtVx 0) (regs [(0, 5)]) = .next t ∧ t.dt ≠ (regs [(0, 5)]).dt) ∧
    (∃ t, exec (.ldStVx 0) (regs [(0, 5)]) = .next t ∧ t.st ≠ (regs [(0, 5)]).st) ∧
    (∃ t, exec (.drw 0 0 1) (regs [] 0x050) = .next t ∧ t.disp ≠ (regs [] 0x050).disp) ∧
    (∃ t, exec (.rnd 0 0) { State.reset with randIn := [1] } = .next t ∧ t.randIn ≠ [1]) ∧
    (∃ t, exec (.rnd 0 0) State.reset = .next t ∧ t.draws ≠ State.reset.draws) :=
  ⟨⟨_, rfl, by decide⟩, ⟨_, rfl, by decide⟩, ⟨_, rfl, by decide, by decide⟩, ⟨_, rfl, by decide⟩, ⟨_, rfl, by decide⟩,
    ⟨_, rfl, by decide⟩, ⟨_, rfl, by decide⟩, ⟨_, rfl, by decide⟩⟩

/-- InstructionsWriteOnlyTheirRegisters: a register that changes. -/
theorem witness_register_written : ∃ t, exec (.addReg 1 2) (regs [(1, 0xFF), (2, 2)]) = .next t ∧
    t.readV 0xF ≠ (regs [(1, 0xFF), (2, 2)]).readV 0xF := ⟨_, rfl, by decide⟩

/-- MemoryIsReachedOnlyByTheFive: two memories that agree on the bytes read and differ elsewhere. -/
theorem witness_memories_differ :
    (∀ a, ReadsAddress (.ldVxMem 1) (regs [] 0x300) a → Memory.read [(0x302, 7)] a = (regs [] 0x300).mem.read a) ∧
    Memory.read [(0x302, 7)] 0x302 ≠ (regs [] 0x300).mem.read 0x302 ∧
    Memory.read [(0x302, 7)] (regs [] 0x300).pc.toNat = (regs [] 0x300).mem.read (regs [] 0x300).pc.toNat ∧
    WritesAddress (.ldB 0) (regs [] 0x300) 0x302 ∧ ¬WritesAddress (.ldB 0) (regs [] 0x300) 0x303 := by
  refine ⟨?_, by decide, by decide, .inl ⟨0, rfl, by decide, by decide⟩, ?_⟩
  · rintro a (⟨_, _, _, h, _⟩ | ⟨x, h, hlo, hhi⟩) <;> cases h
    have hi : (regs [] 0x300).i.toNat = 0x300 := by decide
    have hx : (1 : Nibble).toNat = 1 := by decide
    rw [hi, hx] at hhi
    show (if 0x302 = a then (7 : Byte) else Memory.unlisted a) = Memory.unlisted a
    rw [if_neg (by omega)]
  · rintro (⟨x, h, _, hhi⟩ | ⟨x, h, _⟩)
    · revert hhi
      decide
    · cases h

/-- RestIsForever: at rest halted, and at rest on a self-jump, with a step that is no reset. -/
theorem witness_at_rest : stopped.atRest = true ∧ (bytesAt 0x200 [0x12, 0x00] State.reset).atRest = true ∧
    (bytesAt 0x200 [0x12, 0x00] State.reset).halted = false ∧
    (∃ t, step (bytesAt 0x200 [0x12, 0x00] State.reset) = .next t) ∧
    ∀ font rom rest, (bytesAt 0x200 [0x12, 0x00] State.reset).schedule ≠ .reset font rom :: rest := by
  refine ⟨by decide, by decide, by decide, ⟨_, rfl⟩, ?_⟩
  intro font rom rest h
  cases h

end Sys2Proof.Tests
end

section
/-! What one step leaves alone. `OnNext P o` says that P holds of the state an outcome goes on to; each instruction whose meaning
branches has one introduction rule for it, with one premise per branch, and every other instruction is a single next state. -/

namespace Sys2Proof.Machine

section Rules

variable {P : State → Prop}

/-- P holds of the next state, if the outcome is one. -/
def OnNext (P : State → Prop) (o : Host.Outcome State Fault Refusal) : Prop := ∀ t, o = .next t → P t

theorem OnNext.next {t : State} (h : P t) : OnNext P (.next t) := by
  rintro _ ⟨⟩
  exact h

theorem OnNext.refused (r : Refusal) : OnNext P (.refused r) := by
  rintro _ ⟨⟩

theorem OnNext.ite {c : Prop} [Decidable c] {a b : Host.Outcome State Fault Refusal}
    (ha : c → OnNext P a) (hb : ¬c → OnNext P b) : OnNext P (if c then a else b) := by
  by_cases h : c
  · rw [if_pos h]
    exact ha h
  · rw [if_neg h]
    exact hb h

/-! ## The instructions whose meaning branches -/

theorem OnNext.exec_ret {s : State}
    (empty : s.sp.val = 0 → P (s.takeFault .stackUnderflow (some (encode .ret))))
    (popped : ∀ h : 0 < s.sp.val,
      P ((s.setStack s.stack ⟨s.sp.val - 1, by omega⟩).setPc (s.stackEntry ⟨s.sp.val - 1, by omega⟩))) :
    OnNext P (exec .ret s) := by
  show OnNext P (execRet s)
  unfold execRet
  obtain ⟨hpop, h0⟩ | ⟨hpos, hpop⟩ := s.pop_cases
  · rw [hpop]
    exact .next (empty h0)
  · rw [hpop]
    exact .next (popped hpos)

theorem OnNext.exec_call {s : State} {nnn : Imm12}
    (full : s.sp.val = 16 → P (s.takeFault .stackOverflow (some (encode (.call nnn)))))
    (pushed : ∀ h : s.sp.val < 16,
      P ((s.setStack (s.stack.set s.sp.val (s.pc + 2) h) ⟨s.sp.val + 1, by omega⟩).setPc (nnn.zeroExtend 16))) :
    OnNext P (exec (.call nnn) s) := by
  show OnNext P (execCall nnn s)
  unfold execCall
  obtain ⟨hpush, h16⟩ | ⟨hlt, hpush⟩ := s.push_cases (s.pc + 2)
  · rw [hpush]
    exact .next (full h16)
  · rw [hpush]
    exact .next (pushed hlt)

theorem OnNext.exec_sys {s : State} {nnn : Imm12}
    (fault : s.cfg.sysMode = .fault → P (s.takeFault .unimplementedOpcode (some (encode (.sys nnn)))))
    (nop : s.cfg.sysMode = .nop → P s.advance) :
    OnNext P (exec (.sys nnn) s) := by
  show OnNext P (execSys nnn s)
  unfold execSys
  cases hmode : s.cfg.sysMode with
  | fault => exact .next (fault hmode)
  | nop => exact .next (nop hmode)

theorem OnNext.exec_skp {s : State} {x : Nibble}
    (noKey : keyIndex s.cfg.keyIndexMode (s.readV x) = none → P (s.takeFault .addressFault (some (encode (.skp x)))))
    (key : ∀ k, keyIndex s.cfg.keyIndexMode (s.readV x) = some k → P (s.skipIf (s.readKey k))) :
    OnNext P (exec (.skp x) s) := by
  show OnNext P (execSkp x s)
  unfold execSkp
  cases hkey : keyIndex s.cfg.keyIndexMode (s.readV x) with
  | none => exact .next (noKey hkey)
  | some k => exact .next (key k hkey)

theorem OnNext.exec_sknp {s : State} {x : Nibble}
    (noKey : keyIndex s.cfg.keyIndexMode (s.readV x) = none → P (s.takeFault .addressFault (some (encode (.sknp x)))))
    (key : ∀ k, keyIndex s.cfg.keyIndexMode (s.readV x) = some k → P (s.skipIf (!s.readKey k))) :
    OnNext P (exec (.sknp x) s) := by
  show OnNext P (execSknp x s)
  unfold execSknp
  cases hkey : keyIndex s.cfg.keyIndexMode (s.readV x) with
  | none => exact .next (noKey hkey)
  | some k => exact .next (key k hkey)

theorem OnNext.exec_ldVxK {s : State} {x : Nibble}
    (stalled : lowestPressed s = none → P (s.setPc s.pc))
    (pressed : ∀ k, lowestPressed s = some k → P (s.setV x (k.zeroExtend 8)).advance) :
    OnNext P (exec (.ldVxK x) s) := by
  show OnNext P (execLdVxK x s)
  unfold execLdVxK
  cases hkey : lowestPressed s with
  | none => exact .next (stalled hkey)
  | some k => exact .next (pressed k hkey)

theorem OnNext.exec_drw {s : State} {x y n : Nibble}
    (drawn : n = 0 ∨ rangeOk s.i.toNat n.toNat = true →
      P ((s.setDisp (drawSprite x y n s).1).setV flagReg (flagByte (drawSprite x y n s).2)).advance)
    (outside : ¬(n = 0 ∨ rangeOk s.i.toNat n.toNat = true) →
      P (s.takeFault .addressFault (some (encode (.drw x y n))))) :
    OnNext P (exec (.drw x y n) s) :=
  .ite (fun h => .next (drawn h)) fun h => .next (outside h)

theorem OnNext.exec_ldB {s : State} {x : Nibble}
    (stored : rangeOk s.i.toNat 3 = true → P (s.setMem (s.mem.writeBytes s.i.toNat (bcdDigits (s.readV x)))).advance)
    (outside : ¬rangeOk s.i.toNat 3 = true → P (s.takeFault .addressFault (some (encode (.ldB x))))) :
    OnNext P (exec (.ldB x) s) :=
  .ite (fun h => .next (stored h)) fun h => .next (outside h)

theorem OnNext.exec_ldMemVx {s : State} {x : Nibble}
    (stored : rangeOk s.i.toNat (x.toNat + 1) = true →
      P (s.setMem (s.mem.writeBytes s.i.toNat (s.readVs x))).advance)
    (outside : ¬rangeOk s.i.toNat (x.toNat + 1) = true → P (s.takeFault .addressFault (some (encode (.ldMemVx x))))) :
    OnNext P (exec (.ldMemVx x) s) :=
  .ite (fun h => .next (stored h)) fun h => .next (outside h)

theorem OnNext.exec_ldVxMem {s : State} {x : Nibble}
    (loaded : rangeOk s.i.toNat (x.toNat + 1) = true →
      P (s.setVs 0 (s.mem.readBytes s.i.toNat (x.toNat + 1))).advance)
    (outside : ¬rangeOk s.i.toNat (x.toNat + 1) = true → P (s.takeFault .addressFault (some (encode (.ldVxMem x))))) :
    OnNext P (exec (.ldVxMem x) s) :=
  .ite (fun h => .next (loaded h)) fun h => .next (outside h)

/-! ## Cycles and agents -/

theorem OnNext.cycle {s : State} (ignored : s.halted = true → P s)
    (fetchFault : s.halted = false → fetch s = none → P (s.takeFault .addressFault none))
    (run : ∀ w, s.halted = false → fetch s = some w → OnNext P (exec (decode w) s)) :
    OnNext P (cycle s) := by
  obtain ⟨hh, hc⟩ | ⟨hh, hf, hc⟩ | ⟨w, hh, hf, hc⟩ := cycle_cases s
  · rw [hc]
    exact .next (ignored hh)
  · rw [hc]
    exact .next (fetchFault hh hf)
  · rw [hc]
    exact run w hh hf

theorem OnNext.hostReset {s : State} {font rom : List Byte} (h : launchOk font rom = true → P (s.resetWith font rom)) :
    OnNext P (hostReset font rom s) :=
  .ite (fun hok => .next (h hok)) fun _ => .refused _

theorem OnNext.step {s : State} (idle : s.schedule = [] → OnNext P (Machine.cycle s))
    (agent : ∀ e rest, s.schedule = e :: rest → OnNext P (agentStep e (s.setSchedule rest))) :
    OnNext P (step s) := by
  obtain ⟨hs, hc⟩ | ⟨e, rest, hs, ha⟩ := step_cases (s := s) rfl
  · rw [← hc]
    exact idle hs
  · rw [← ha]
    exact agent e rest hs

end Rules

/-! ## The launch parameters -/

/-- No instruction writes the launch parameters: neither its result nor the fault it raises does. -/
theorem exec_keeps_cfg (i : Instr) (s : State) : OnNext (fun t => t.cfg = s.cfg) (exec i s) := by
  cases i with
  | ret => exact .exec_ret (fun _ => rfl) fun _ => rfl
  | call nnn => exact .exec_call (fun _ => rfl) fun _ => rfl
  | sys nnn => exact .exec_sys (fun _ => rfl) fun _ => rfl
  | skp x => exact .exec_skp (fun _ => rfl) fun _ _ => rfl
  | sknp x => exact .exec_sknp (fun _ => rfl) fun _ _ => rfl
  | ldVxK x => exact .exec_ldVxK (fun _ => rfl) fun _ _ => rfl
  | drw x y n => exact .exec_drw (fun _ => rfl) fun _ => rfl
  | ldB x => exact .exec_ldB (fun _ => rfl) fun _ => rfl
  | ldMemVx x => exact .exec_ldMemVx (fun _ => rfl) fun _ => rfl
  | ldVxMem x => exact .exec_ldVxMem (fun _ => s.setVs_cfg _ _) fun _ => rfl
  | rnd x kk => exact .next s.dropRand_cfg
  | _ => exact .next rfl

theorem cycle_keeps_cfg (s : State) : OnNext (fun t => t.cfg = s.cfg) (cycle s) :=
  .cycle (fun _ => rfl) (fun _ _ => rfl) fun w _ _ => exec_keeps_cfg (decode w) s

/-- No agent writes the launch parameters; a reset keeps the machine's own. -/
theorem agentStep_keeps_cfg (e : HostEvent) (s : State) : OnNext (fun t => t.cfg = s.cfg) (agentStep e s) := by
  cases e with
  | cycle => exact cycle_keeps_cfg s
  | tick => exact .next s.tick_cfg
  | key k pressed => exact .next (s.setKey_cfg k pressed)
  | reset font rom => exact .hostReset fun _ => rfl

/-- Settles O58: the step is a cycle or an agent's step, and each of them keeps the launch parameters. -/
theorem parametersNeverChange : Obligations.ParametersNeverChange := fun s =>
  OnNext.step (fun _ => cycle_keeps_cfg s) fun e rest _ => agentStep_keeps_cfg e (s.setSchedule rest)

end Sys2Proof.Machine
end

section
/-! The machine's invariant (memory canonical, the halt bit and the latch in agreement) at reset and over every step, and the table a
reset leaves. Memory is written in three places only: the two stores, inside the range they have checked, and the loader. -/

namespace Sys2Proof.Machine

/-! ## What keeps the latch and the invariant -/

/-- A running core with a clear latch (10_state.md R45, R46). -/
theorem State.latchConsistent_of_clear {s : State} (hrun : s.halted = false) (hclear : s.fault = FaultLatch.clear) :
    s.latchConsistent := by
  simp [State.latchConsistent, hrun, hclear, FaultLatch.clear]

/-- The entry of a fault sets the halt bit and the cause together, and a latch without a word holds 0 (60_exceptions.md R237). -/
theorem State.takeFault_latchConsistent (s : State) (c : FaultCause) (w : Option Word) :
    (s.takeFault c w).latchConsistent := by
  cases w <;> simp [State.latchConsistent]

/-- The invariant speaks of memory and the latch alone. -/
theorem State.Inv.of_same_memory_and_latch {s t : State} (h : s.Inv) (hmem : t.mem = s.mem) (hfault : t.fault = s.fault)
    (hhalted : t.halted = s.halted) : t.Inv := by
  simpa only [State.Inv, State.latchConsistent, hmem, hfault, hhalted] using h

theorem State.Inv.takeFault {s : State} (h : s.Inv) (c : FaultCause) (w : Option Word) : (s.takeFault c w).Inv :=
  ⟨h.1, s.takeFault_latchConsistent c w⟩

/-- Bytes stored inside a range that `CheckRange` accepts (20_memory.md R64). -/
theorem State.Inv.storeBytes {s : State} (h : s.Inv) {a len : Nat} {bs : List Byte} (hlen : bs.length = len)
    (hrange : rangeOk a len = true) : (s.setMem (s.mem.writeBytes a bs)).Inv :=
  ⟨Memory.wf_writeBytes (hlen ▸ (rangeOk_iff a len).1 hrange) h.1, h.2⟩

/-- A described launch loads inside memory. -/
theorem loadedMemory_wf {font rom : List Byte} (h : launchOk font rom = true) : (loadedMemory font rom).wf = true := by
  obtain ⟨hfont, hrom⟩ := of_decide_eq_true h
  exact Memory.wf_writeBytes (by omega) (Memory.wf_writeBytes (by omega) rfl)

theorem State.resetWith_inv (s : State) {font rom : List Byte} (h : launchOk font rom = true) :
    (s.resetWith font rom).Inv :=
  ⟨loadedMemory_wf h, State.latchConsistent_of_clear rfl rfl⟩

/-! ## Every step keeps the invariant -/

/-- An instruction keeps the invariant: it enters a fault, or stores inside its checked range, or leaves memory and latch alone. -/
theorem exec_keeps_inv (i : Instr) {s : State} (h : s.Inv) : OnNext State.Inv (exec i s) := by
  cases i with
  | ret => exact .exec_ret (fun _ => h.takeFault _ _) fun _ => h
  | call nnn => exact .exec_call (fun _ => h.takeFault _ _) fun _ => h
  | sys nnn => exact .exec_sys (fun _ => h.takeFault _ _) fun _ => h
  | skp x => exact .exec_skp (fun _ => h.takeFault _ _) fun _ _ => h
  | sknp x => exact .exec_sknp (fun _ => h.takeFault _ _) fun _ _ => h
  | ldVxK x => exact .exec_ldVxK (fun _ => h) fun _ _ => h
  | drw x y n => exact .exec_drw (fun _ => h) fun _ => h.takeFault _ _
  | ldB x => exact .exec_ldB (h.storeBytes (bcdDigits_length _)) fun _ => h.takeFault _ _
  | ldMemVx x => exact .exec_ldMemVx (h.storeBytes (s.readVs_length x)) fun _ => h.takeFault _ _
  | ldVxMem x =>
    refine .exec_ldVxMem (fun _ => ?_) fun _ => h.takeFault _ _
    exact h.of_same_memory_and_latch (s.setVs_mem _ _) (s.setVs_fault _ _) (s.setVs_halted _ _)
  | rnd x kk => exact .next (h.of_same_memory_and_latch s.dropRand_mem s.dropRand_fault s.dropRand_halted)
  | invalid w => exact .next (h.takeFault _ _)
  | _ => exact .next h

theorem cycle_keeps_inv {s : State} (h : s.Inv) : OnNext State.Inv (cycle s) :=
  .cycle (fun _ => h) (fun _ _ => h.takeFault _ _) fun w _ _ => exec_keeps_inv (decode w) h

/-- The other agents reach neither memory nor the latch, but for a reset, which sets both anew. -/
theorem agentStep_keeps_inv (e : HostEvent) {s : State} (h : s.Inv) : OnNext State.Inv (agentStep e s) := by
  cases e with
  | cycle => exact cycle_keeps_inv h
  | tick => exact .next h
  | key k pressed => exact .next h
  | reset font rom => exact .hostReset s.resetWith_inv

/-- Settles O51: the step is a cycle or an agent's step, and each of them keeps the invariant. -/
theorem stepKeepsTheInvariant : Obligations.StepKeepsTheInvariant := fun _ t h =>
  OnNext.step (fun _ => cycle_keeps_inv h) (fun e _ _ => agentStep_keeps_inv e h) t

/-! ## Reset -/

/-- Settles O53: at reset memory lists nothing, the latch is clear, the PC is the entry point and every return address is 0. -/
theorem invariantsHoldAtReset : Obligations.InvariantsHoldAtReset :=
  ⟨⟨rfl, State.latchConsistent_of_clear rfl rfl⟩, by decide, by decide⟩

/-- A read after consecutive writes, inside them or outside (20_memory.md R67). -/
theorem Memory.read_writeBytes (m : Memory) (a a' : Nat) (bs : List Byte) :
    (m.writeBytes a bs).read a' = if a ≤ a' ∧ a' < a + bs.length then bs.getD (a' - a) 0 else m.read a' := by
  split
  next h =>
    obtain ⟨k, rfl⟩ := Nat.exists_eq_add_of_le h.1
    have hk : k < bs.length := by omega
    rw [Memory.read_writeBytes_inside m a bs hk, Nat.add_sub_cancel_left, List.getD_eq_getElem _ _ hk]
  next h => exact Memory.read_writeBytes_outside m a bs (by omega)

/-- What a launch leaves at an address: the font and the ROM lie apart, and every other byte is 0 (R49, R83, R84). -/
theorem loadedMemory_read {font : List Byte} (rom : List Byte) (hfont : font.length = 80) (a : Nat) :
    (loadedMemory font rom).read a =
      if 0x050 ≤ a ∧ a < 0x0A0 then font.getD (a - 0x050) 0
      else if 0x200 ≤ a ∧ a < 0x200 + rom.length then rom.getD (a - 0x200) 0 else 0 := by
  rw [loadedMemory, Memory.read_writeBytes, Memory.read_writeBytes, hfont]
  by_cases hf : 0x050 ≤ a ∧ a < 0x0A0
  · rw [if_neg (by omega), if_pos hf, if_pos hf]
  · rw [if_neg hf, if_neg hf, Memory.read, Memory.unlisted, if_neg hf]

theorem step_of_reset {s : State} {font rom : List Byte} {rest : List HostEvent} (hs : s.schedule = .reset font rom :: rest)
    (h : launchOk font rom = true) : step s = .next ((s.setSchedule rest).resetWith font rom) :=
  (step_of_schedule_cons hs).trans (if_pos h)

/-- Settles O48: the step is the reset, whose memory is the loaded one and whose other state stands in the reset table. -/
theorem resetLeavesTheTable : Obligations.ResetLeavesTheTable := by
  intro s font rom rest hs hfont hrom
  refine ⟨_, step_of_reset hs (decide_eq_true ⟨hfont, hrom⟩), fun a _ => loadedMemory_read rom hfont a, ?_⟩
  simp [State.resetWith, State.reset, State.readV, State.stackEntry, State.readKey, Display.get, Display.blank, FaultLatch.code,
    FaultLatch.clear]

end Sys2Proof.Machine
end

section
/-! What each agent's step may write: the key source, and every instruction, part by part and register by register
(10_state.md R32-R43). -/

namespace Sys2Proof.Machine

/-! ## The key source -/

/-- Settles O47: the step is the key source's write, and a keypad entry read after it is the one written or an old one. -/
theorem keySourceWritesOneKey : Obligations.KeySourceWritesOneKey := by
  intro s k p rest hs
  refine ⟨(s.setSchedule rest).setKey k p, step_of_schedule_cons hs, ?_, fun j hj => ?_, rfl, rfl, fun _ _ => rfl, ?_⟩
  · simp [State.readKey_setKey]
  · simp [State.readKey_setKey, hj]
  · constructor <;> simp

/-! ## The parts beside the registers -/

/-- Settles O55: each instruction's next state is a composition of updates of its own parts, which leave every other part alone. -/
theorem instructionsWriteOnlyTheirOwnState : Obligations.InstructionsWriteOnlyTheirOwnState := by
  intro i s
  change OnNext _ (exec i s)
  cases i with
  | ret => exact .exec_ret (fun _ => by simp) fun _ => by simp
  | call nnn => exact .exec_call (fun _ => by simp) fun _ => by simp
  | sys nnn => exact .exec_sys (fun _ => by simp) fun _ => by simp
  | skp x => exact .exec_skp (fun _ => by simp) fun _ _ => by simp
  | sknp x => exact .exec_sknp (fun _ => by simp) fun _ _ => by simp
  | ldVxK x => exact .exec_ldVxK (fun _ => by simp) fun _ _ => by simp
  | drw x y n => exact .exec_drw (fun _ => by simp) fun _ => by simp
  | ldB x => exact .exec_ldB (fun _ => by simp) fun _ => by simp
  | ldMemVx x => exact .exec_ldMemVx (fun _ => by simp) fun _ => by simp
  | ldVxMem x => exact .exec_ldVxMem (fun _ => by simp) fun _ => by simp
  | _ => exact .next (by simp)


/-! ## The registers -/

/-- A register that reads otherwise after a register write is the one written. -/
theorem State.eq_of_readV_setV_ne {s : State} {x r : Nibble} {b : Byte} (h : (s.setV x b).readV r ≠ s.readV r) : r = x :=
  Not.imp_symm (s.readV_setV_other b) h

/-- A register that reads otherwise after a result and its flag is the result's or VF (R33). -/
theorem State.eq_or_eq_flagReg_of_readV_ne {s : State} {x r : Nibble} {b : Byte} {f : Bool}
    (h : (s.writeResultAndFlag x b f).readV r ≠ s.readV r) : r = x ∨ r = flagReg := by
  by_contra hr
  obtain ⟨hx, hflag⟩ := not_or.1 hr
  exact h (by simp [hx, hflag])

/-- A register that reads otherwise after a run of writes from V0 on is one of the run. -/
theorem State.lt_of_readV_setVs_ne {s : State} {bs : List Byte} {r : Nibble} (hlen : bs.length ≤ 16)
    (h : (s.setVs 0 bs).readV r ≠ s.readV r) : r.toNat < bs.length := by
  by_contra hr
  exact h (by rw [s.setVs_readV 0 bs (by omega), dif_neg (by omega)])

/-- The register LD Vx, [I] changes is one of V0..Vx (42_index_memory.md R175). -/
theorem State.le_of_readV_setVs_readBytes_ne {s : State} {x r : Nibble} {a : Nat}
    (h : (s.setVs 0 (s.mem.readBytes a (x.toNat + 1))).readV r ≠ s.readV r) : r.toNat ≤ x.toNat :=
  Nat.le_of_lt_succ (by simpa using State.lt_of_readV_setVs_ne (by simpa using x.isLt) h)

/-- An instruction changes only the registers of its row of the table of R32; one in no row changes none, and a fault changes none. -/
theorem exec_changes_only_its_registers (i : Instr) (s : State) (r : Nibble) :
    OnNext (fun t => t.readV r ≠ s.readV r → WritesRegister i r) (exec i s) := by
  have unwritten (h : s.readV r ≠ s.readV r) : WritesRegister i r := absurd rfl h
  cases i with
  | ret => exact .exec_ret (fun _ => unwritten) fun _ => unwritten
  | call nnn => exact .exec_call (fun _ => unwritten) fun _ => unwritten
  | sys nnn => exact .exec_sys (fun _ => unwritten) fun _ => unwritten
  | skp x => exact .exec_skp (fun _ => unwritten) fun _ _ => unwritten
  | sknp x => exact .exec_sknp (fun _ => unwritten) fun _ _ => unwritten
  | ldB x => exact .exec_ldB (fun _ => unwritten) fun _ => unwritten
  | ldMemVx x => exact .exec_ldMemVx (fun _ => unwritten) fun _ => unwritten
  | ldImm x _ | addImm x _ | ldReg x _ | orReg x _ | andReg x _ | xorReg x _ | ldVxDt x =>
    exact .next fun h => by simp [WritesRegister, State.eq_of_readV_setV_ne h]
  | rnd x kk =>
    refine .next fun h => ?_
    have hr : r = x := State.eq_of_readV_setV_ne (h.trans_eq (s.dropRand_readV r).symm)
    simp [WritesRegister, hr]
  | ldVxK x => exact .exec_ldVxK (fun _ => unwritten) fun _ _ h => by simp [WritesRegister, State.eq_of_readV_setV_ne h]
  | addReg x y | sub x y | subn x y | shr x y | shl x y =>
    exact .next fun h => by simpa [WritesRegister, flagReg] using State.eq_or_eq_flagReg_of_readV_ne h
  | drw x y n => exact .exec_drw (fun _ h => by simpa [WritesRegister, flagReg] using State.eq_of_readV_setV_ne h) fun _ => unwritten
  | ldVxMem x =>
    exact .exec_ldVxMem (fun _ h => by simpa [WritesRegister] using State.le_of_readV_setVs_readBytes_ne h) fun _ => unwritten
  | _ => exact .next unwritten

/-- Settles O56, row by row of the table of R32. -/
theorem instructionsWriteOnlyTheirRegisters : Obligations.InstructionsWriteOnlyTheirRegisters :=
  fun i s t r => exec_changes_only_its_registers i s r t

end Sys2Proof.Machine
end

section
/-! Memory as the fetch and the instructions reach it (20_memory.md R63-R69, R81): what the canonical form determines, the fetch and its
check, and which bytes an instruction reads and writes. Every step's totality and the refused launch stand here too (R83). -/

namespace Sys2Proof.Machine

/-! ## The canonical form -/

theorem Memory.wfFrom_cons {lo a : Nat} {b : Byte} {rest : Memory} :
    Memory.wfFrom lo ((a, b) :: rest) = true ↔
      lo ≤ a ∧ a ≤ 0xFFF ∧ b ≠ Memory.unlisted a ∧ Memory.wfFrom (a + 1) rest = true := by
  simp [Memory.wfFrom, and_assoc]

/-- A canonical memory lists nothing below its first key. -/
theorem Memory.read_below {lo a : Nat} {m : Memory} (hm : Memory.wfFrom lo m = true) (ha : a < lo) :
    m.read a = Memory.unlisted a := by
  induction m generalizing lo with
  | nil => rfl
  | cons c rest ih =>
    obtain ⟨hlo, -, -, hrest⟩ := Memory.wfFrom_cons.1 hm
    rw [Memory.read, if_neg (by omega)]
    exact ih hrest (by omega)

/-- A memory that reads as m does lists m's first key too: it does not start above it. -/
theorem Memory.not_wfFrom_above {lo k : Nat} {b : Byte} {rest m' : Memory} (hm : Memory.wfFrom lo ((k, b) :: rest) = true)
    (hread : m'.read k = Memory.read ((k, b) :: rest) k) : ¬Memory.wfFrom (k + 1) m' = true := by
  intro hm'
  obtain ⟨-, -, hb, -⟩ := Memory.wfFrom_cons.1 hm
  rw [Memory.read_below hm' k.lt_succ_self, Memory.read, if_pos rfl] at hread
  exact hb hread.symm

/-- Canonical memories with one first entry, that read alike, read alike without it. -/
theorem Memory.read_tail_eq {k : Nat} {b : Byte} {rest rest' : Memory} (hrest : Memory.wfFrom (k + 1) rest = true)
    (hrest' : Memory.wfFrom (k + 1) rest' = true)
    (hread : ∀ a, Memory.read ((k, b) :: rest) a = Memory.read ((k, b) :: rest') a) (a : Nat) : rest.read a = rest'.read a := by
  by_cases hk : k = a
  · rw [Memory.read_below hrest (by omega), Memory.read_below hrest' (by omega)]
  · simpa [Memory.read, hk] using hread a

theorem Memory.eq_of_wfFrom_of_read_eq {lo : Nat} {m m' : Memory} (hm : Memory.wfFrom lo m = true)
    (hm' : Memory.wfFrom lo m' = true) (hread : ∀ a, m.read a = m'.read a) : m = m' := by
  induction m generalizing lo m' with
  | nil =>
    cases m' with
    | nil => rfl
    | cons c' rest' => exact absurd rfl (Memory.not_wfFrom_above hm' (hread c'.1))
  | cons c rest ih =>
    obtain ⟨k, b⟩ := c
    cases m' with
    | nil => exact absurd rfl (Memory.not_wfFrom_above hm (hread k).symm)
    | cons c' rest' =>
      obtain ⟨k', b'⟩ := c'
      obtain ⟨-, hk, hb, hrest⟩ := Memory.wfFrom_cons.1 hm
      obtain ⟨-, hk', hb', hrest'⟩ := Memory.wfFrom_cons.1 hm'
      have hle : k' ≤ k := Nat.not_lt.1 fun h =>
        Memory.not_wfFrom_above hm (hread k).symm (Memory.wfFrom_cons.2 ⟨h, hk', hb', hrest'⟩)
      have hge : k ≤ k' := Nat.not_lt.1 fun h =>
        Memory.not_wfFrom_above hm' (hread k') (Memory.wfFrom_cons.2 ⟨h, hk, hb, hrest⟩)
      obtain rfl : k = k' := Nat.le_antisymm hge hle
      obtain rfl : b = b' := by simpa [Memory.read] using hread k
      rw [ih hrest hrest' (Memory.read_tail_eq hrest hrest' hread)]

/-- Settles O54, by induction on the two lists: the first keys agree, since each is listed in the other memory too. -/
theorem canonicalMemoriesAreExtensional : Obligations.CanonicalMemoriesAreExtensional :=
  fun _ _ hm hm' => Memory.eq_of_wfFrom_of_read_eq hm hm'

/-! ## The fetch -/

/-- Settles O6: the word fetched is its two bytes, the one at the lower address first. -/
theorem fetchIsBigEndian : Obligations.FetchIsBigEndian := by
  intro m a
  rw [fetchWord, wordOfBytes_toNat, Nat.mul_comm]

theorem fetch_of_check {s : State} (h : fetchCheck s.cfg.fetchCheck s.pc = true) :
    fetch s = some (fetchWord s.mem s.pc.toNat) := if_pos h

theorem fetch_of_not_check {s : State} (h : ¬fetchCheck s.cfg.fetchCheck s.pc = true) : fetch s = none := if_neg h

theorem fetchCheck_strict (pc : Word) :
    fetchCheck .strict pc = true ↔ pc.toNat % 2 = 0 ∧ 0x200 ≤ pc.toNat ∧ pc.toNat ≤ 0xFFE := by
  simp [fetchCheck]

theorem fetchCheck_boundsOnly (pc : Word) : fetchCheck .boundsOnly pc = true ↔ pc.toNat ≤ 0xFFE := by
  simp [fetchCheck]

/-- The entry point passes the check under both settings (20_memory.md R69). -/
theorem fetchCheck_entry (c : FetchCheck) : fetchCheck c 0x200 = true := by
  cases c <;> decide

/-- The first two bytes stored from an address on are the word fetched there (R66, R81). -/
theorem fetchWord_writeBytes (m : Memory) (a : Nat) {bs : List Byte} (h : 1 < bs.length) :
    fetchWord (m.writeBytes a bs) a = wordOfBytes bs[0] bs[1] := by
  rw [fetchWord, Memory.read_writeBytes_inside m a bs h, ← Memory.read_writeBytes_inside m a bs (Nat.zero_lt_of_lt h),
    Nat.add_zero]

theorem cycle_of_fetch {s : State} {w : Word} (hrun : s.halted = false) (h : fetch s = some w) :
    cycle s = exec (decode w) s := by
  simp [cycle, hrun, h]

theorem cycle_of_fetch_none {s : State} (hrun : s.halted = false) (h : fetch s = none) :
    cycle s = .next (s.takeFault .addressFault none) := by
  simp [cycle, hrun, h]

theorem step_of_cycleIsNext {s c : State} (h : CycleIsNext s c) : step s = cycle c := by
  obtain ⟨hs, rfl⟩ | ⟨rest, hs, rfl⟩ := h
  · exact step_of_schedule_nil hs
  · exact step_of_schedule_cons hs

/-- The entry of a fault writes the latch and the halt bit and nothing else (60_exceptions.md R237). -/
theorem State.takeFault_faulted (s : State) (c : FaultCause) (w : Option Word) : Faulted c w s (s.takeFault c w) := by
  refine ⟨rfl, rfl, rfl, rfl, rfl, rfl, fun _ _ => rfl, ?_⟩
  constructor <;> simp

/-- Settles O7: what the statement calls bad is the failure of the check, which alone decides the fetch. -/
theorem fetchCheckDecidesTheFetch : Obligations.FetchCheckDecidesTheFetch := by
  intro s c hnext hrun bad
  have hbad : bad ↔ ¬fetchCheck c.cfg.fetchCheck c.pc = true := by
    cases hmode : c.cfg.fetchCheck with
    | strict =>
      simp only [bad, hmode, fetchCheck_strict, true_and, reduceCtorEq, false_and, or_false]
      omega
    | boundsOnly => simp [bad, hmode, fetchCheck_boundsOnly]
  constructor
  · intro h
    have hfault := cycle_of_fetch_none hrun (fetch_of_not_check (hbad.1 h))
    exact ⟨_, (step_of_cycleIsNext hnext).trans hfault, c.takeFault_faulted _ _⟩
  · intro h
    have hcheck : fetchCheck c.cfg.fetchCheck c.pc = true := not_not.1 fun hn => h (hbad.2 hn)
    exact ⟨_, fetch_of_check hcheck, fetchIsBigEndian _ _⟩

/-! ## A word stored where the next fetch reads -/

theorem State.withFetchWord_check (s : State) (nbits w : Nat) :
    fetchCheck (s.withFetchWord nbits w).cfg.fetchCheck (s.withFetchWord nbits w).pc = true := by
  unfold State.withFetchWord
  by_cases h : fetchCheck s.cfg.fetchCheck s.pc = true
  · simp [h]
  · simpa [h] using fetchCheck_entry _

theorem State.withFetchWord_mem (s : State) (w : Word) :
    (s.withFetchWord 16 w.toNat).mem =
      s.mem.writeBytes (s.withFetchWord 16 w.toNat).pc.toNat [highByte w, lowByte w] := by
  simp only [State.withFetchWord, Nat.mod_eq_of_lt w.isLt, BitVec.ofNat_toNat, BitVec.setWidth_eq]

theorem State.fetch_withFetchWord (s : State) (w : Word) : fetch (s.withFetchWord 16 w.toNat) = some w := by
  rw [fetch_of_check (s.withFetchWord_check 16 w.toNat), s.withFetchWord_mem, fetchWord_writeBytes _ _ (by simp)]
  exact congrArg some (wordOfBytes_highByte_lowByte w)

/-- Settles O12: the state is made so that the core runs, its cycle is next, and its fetch reads the word. -/
theorem placedWordRunsNext : Obligations.PlacedWordRunsNext := fun s w =>
  (step_of_schedule_nil rfl).trans (cycle_of_fetch rfl (s.fetch_withFetchWord w))

theorem exec_ldMemVx_of_rangeOk {x : Nibble} {s : State} (h : rangeOk s.i.toNat (x.toNat + 1) = true) :
    exec (.ldMemVx x) s = .next (s.setMem (s.mem.writeBytes s.i.toNat (s.readVs x))).advance := if_pos h

/-- Settles O35: V0 and V1 are stored at I, which is the PC after the instruction. -/
theorem storedBytesAreFetchedNext : Obligations.StoredBytesAreFetchedNext := by
  intro x s t hx hi hrange hcheck hstore
  rw [exec_ldMemVx_of_rangeOk ((rangeOk_iff _ _).2 (by omega))] at hstore
  injection hstore with ht
  subst ht
  refine ⟨_, fetch_of_check hcheck, ?_⟩
  show (fetchWord (s.mem.writeBytes s.i.toNat (s.readVs x)) (s.pc + 2).toNat).toNat = _
  rw [← hi, fetchWord_writeBytes _ _ (by rw [State.readVs_length]; omega), wordOfBytes_toNat, Nat.mul_comm]
  simp [State.readVs_getElem]

/-! ## Which bytes an instruction reaches -/

/-! An operation that does not read memory commutes with the replacement of memory. -/

theorem State.dropRand_setMem (s : State) (m : Memory) : (s.setMem m).dropRand = s.dropRand.setMem m := by
  simp only [State.dropRand, State.setMem_randIn]
  split <;> rfl

theorem State.setVs_setMem (s : State) (m : Memory) (k : Nat) (bs : List Byte) :
    (s.setMem m).setVs k bs = (s.setVs k bs).setMem m := by
  induction bs generalizing s k with
  | nil => rfl
  | cons b bs ih => exact ih (s.setV (BitVec.ofNat 4 k) b) (k + 1)

theorem State.push_setMem (s : State) (m : Memory) (w : Word) : (s.setMem m).push w = (s.push w).map (·.setMem m) := by
  by_cases h : s.sp.val < 16
  · rw [State.push, State.push, dif_pos h]
    exact dif_pos h
  · rw [State.push, State.push, dif_neg h]
    exact dif_neg h

theorem State.pop_setMem (s : State) (m : Memory) : (s.setMem m).pop = s.pop.map fun p => (p.1, p.2.setMem m) := by
  by_cases h : 0 < s.sp.val
  · rw [State.pop, State.pop, dif_pos h]
    exact dif_pos h
  · rw [State.pop, State.pop, dif_neg h]
    exact dif_neg h

theorem lowestPressed_setMem (s : State) (m : Memory) : lowestPressed (s.setMem m) = lowestPressed s := rfl

/-- The bytes read depend on their own addresses alone (20_memory.md R67). -/
theorem Memory.readBytes_congr {m m' : Memory} {base n : Nat} (h : ∀ a, base ≤ a → a < base + n → m.read a = m'.read a) :
    m.readBytes base n = m'.readBytes base n :=
  List.map_congr_left fun k hk => h _ (Nat.le_add_right _ _) (by have := List.mem_range.1 hk; omega)

theorem writesAddress_ldB {x : Nibble} {s : State} {a : Nat} :
    WritesAddress (.ldB x) s a ↔ s.i.toNat ≤ a ∧ a ≤ s.i.toNat + 2 := by
  simp [WritesAddress]

theorem writesAddress_ldMemVx {x : Nibble} {s : State} {a : Nat} :
    WritesAddress (.ldMemVx x) s a ↔ s.i.toNat ≤ a ∧ a ≤ s.i.toNat + x.toNat := by
  simp [WritesAddress]

/-- From s, and from s with memory m in its place, instruction i goes to t and to u: they differ in memory alone, the bytes i does not write
keep their value, and those it writes come out the same unless it wrote none. -/
def MemoryApart (i : Instr) (s : State) (m : Memory) (t u : State) : Prop :=
  u.setMem t.mem = t ∧ (∀ a, ¬WritesAddress i s a → t.mem.read a = s.mem.read a ∧ u.mem.read a = m.read a) ∧
    ∀ a, WritesAddress i s a → (t.mem = s.mem ∧ u.mem = m) ∨ u.mem.read a = t.mem.read a

theorem MemoryApart.unwritten {i : Instr} {s t : State} {m : Memory} (h : t.mem = s.mem) : MemoryApart i s m t (t.setMem m) :=
  ⟨rfl, fun a _ => ⟨by rw [h], rfl⟩, fun _ _ => .inl ⟨h, rfl⟩⟩

/-- The bytes bs stored at I, by an instruction whose own addresses they are. -/
theorem MemoryApart.stored {i : Instr} {s : State} (m : Memory) {bs : List Byte}
    (hown : ∀ a, WritesAddress i s a ↔ s.i.toNat ≤ a ∧ a < s.i.toNat + bs.length) :
    MemoryApart i s m (s.setMem (s.mem.writeBytes s.i.toNat bs)).advance (s.setMem (m.writeBytes s.i.toNat bs)).advance := by
  refine ⟨rfl, fun a ha => ?_, fun a ha => .inr ?_⟩
  · rw [hown] at ha
    simp [Memory.read_writeBytes, ha]
  · rw [hown] at ha
    simp [Memory.read_writeBytes, ha]

/-- Every instruction, from two states that differ in memory alone and agree on the bytes it reads. -/
theorem exec_memoryApart (i : Instr) (s : State) (m : Memory) (hread : ∀ a, ReadsAddress i s a → m.read a = s.mem.read a) :
    ∃ t u, exec i s = .next t ∧ exec i (s.setMem m) = .next u ∧ MemoryApart i s m t u := by
  cases i with
  | ret =>
    simp only [exec, execRet, State.pop_setMem]
    rcases s.pop_cases with ⟨hpop, -⟩ | ⟨_, hpop⟩ <;> rw [hpop] <;> exact ⟨_, _, rfl, rfl, .unwritten rfl⟩
  | call nnn =>
    simp only [exec, execCall, State.setMem_pc, State.push_setMem]
    rcases s.push_cases (s.pc + 2) with ⟨hpush, -⟩ | ⟨_, hpush⟩ <;> rw [hpush] <;> exact ⟨_, _, rfl, rfl, .unwritten rfl⟩
  | sys | skp | sknp | ldVxK =>
    simp only [exec, execSys, execSkp, execSknp, execLdVxK, State.setMem_cfg, State.setMem_readV, lowestPressed_setMem]
    split <;> exact ⟨_, _, rfl, rfl, .unwritten rfl⟩
  | rnd x kk =>
    simp only [exec, execRnd, State.dropRand_setMem]
    exact ⟨_, _, rfl, rfl, .unwritten s.dropRand_mem⟩
  | drw x y n =>
    have hsprite : drawSprite x y n (s.setMem m) = drawSprite x y n s :=
      congrArg (blitRows _ _ _ · _) (Memory.readBytes_congr fun a hlo hhi => hread a (.inl ⟨x, y, n, rfl, hlo, hhi⟩))
    by_cases h : n = 0 ∨ rangeOk s.i.toNat n.toNat = true
    · refine ⟨_, _, if_pos h, if_pos h, ?_⟩
      rw [hsprite]
      exact .unwritten rfl
    · exact ⟨_, _, if_neg h, if_neg h, .unwritten rfl⟩
  | ldVxMem x =>
    have hbytes : m.readBytes s.i.toNat (x.toNat + 1) = s.mem.readBytes s.i.toNat (x.toNat + 1) :=
      Memory.readBytes_congr fun a hlo hhi => hread a (.inr ⟨x, rfl, hlo, Nat.le_of_lt_succ hhi⟩)
    by_cases h : rangeOk s.i.toNat (x.toNat + 1) = true
    · refine ⟨_, _, if_pos h, if_pos h, ?_⟩
      rw [State.setVs_setMem]
      simp only [State.setMem_mem, State.setMem_i, hbytes]
      exact .unwritten (s.setVs_mem _ _)
    · exact ⟨_, _, if_neg h, if_neg h, .unwritten rfl⟩
  | ldB x =>
    by_cases h : rangeOk s.i.toNat 3 = true
    · exact ⟨_, _, if_pos h, if_pos h, .stored m fun a => by rw [writesAddress_ldB, bcdDigits_length]; omega⟩
    · exact ⟨_, _, if_neg h, if_neg h, .unwritten rfl⟩
  | ldMemVx x =>
    by_cases h : rangeOk s.i.toNat (x.toNat + 1) = true
    · exact ⟨_, _, if_pos h, if_pos h, .stored m fun a => by rw [writesAddress_ldMemVx, s.readVs_length]; omega⟩
    · exact ⟨_, _, if_neg h, if_neg h, .unwritten rfl⟩
  | _ => exact ⟨_, _, rfl, rfl, .unwritten rfl⟩

/-- Settles O57: the fetch reads the two bytes its word is made of, and every instruction keeps its states apart in memory alone. -/
theorem memoryIsReachedOnlyByTheFive : Obligations.MemoryIsReachedOnlyByTheFive := by
  refine ⟨fun s m hhi hlo => ?_, exec_memoryApart⟩
  simp [fetch, fetchWord, hhi, hlo]

/-! ## Every step answers -/

/-- No arm of exec is refused: a meaning that branches answers a next state on each branch, a fault's entry among them. -/
theorem exec_completes (i : Instr) (s : State) : ∃ t, exec i s = .next t := by
  cases i with
  | ret | call | sys | skp | sknp | ldVxK | drw | ldB | ldMemVx | ldVxMem =>
    simp only [exec, execRet, execCall, execSys, execSkp, execSknp, execLdVxK, execDrw, execLdB, execLdMemVx, execLdVxMem]
    split <;> exact ⟨_, rfl⟩
  | _ => exact ⟨_, rfl⟩

theorem cycle_completes (s : State) : ∃ t, cycle s = .next t := by
  obtain ⟨-, hc⟩ | ⟨-, -, hc⟩ | ⟨w, -, -, hc⟩ := cycle_cases s
  · exact ⟨_, hc⟩
  · exact ⟨_, hc⟩
  · rw [hc]
    exact exec_completes (decode w) s

/-- Settles O11, agent by agent. -/
theorem everyStepCompletes : Obligations.EveryStepCompletes := by
  intro s hlaunch
  cases hs : s.schedule with
  | nil =>
    rw [step_of_schedule_nil hs]
    exact cycle_completes s
  | cons e rest =>
    cases e with
    | cycle =>
      rw [step_of_schedule_cons hs]
      exact cycle_completes (s.setSchedule rest)
    | tick => exact ⟨_, step_of_schedule_cons hs⟩
    | key k pressed => exact ⟨_, step_of_schedule_cons hs⟩
    | reset font rom => exact ⟨_, step_of_reset hs (decide_eq_true (hlaunch font rom rest hs))⟩

/-- Settles O49: the step is the reset, and the check of its launch fails. -/
theorem undescribedLaunchIsRefused : Obligations.UndescribedLaunchIsRefused := by
  intro s font rom rest hs hbad
  have hlaunch : ¬launchOk font rom = true := fun h => by
    obtain ⟨hfont, hrom⟩ := of_decide_eq_true h
    omega
  exact (step_of_schedule_cons hs).trans (if_neg hlaunch)

end Sys2Proof.Machine
end

section
/-! The decoder and the encoder are inverse to each other. `Encodes i w` says that i is well formed and w is its word; every branch
of the decoder answers such an instruction, and a well-formed instruction is the one its word decodes to. -/

namespace Sys2Proof

/-! ## A word is the packing of its fields (30_encoding.md R91, R92) -/

section Packing

variable {w : Word} {op n : Nibble} {kk : Byte}

theorem wordA_fields (hop : opField w = op) : wordA op (nnnField w) = w := by
  subst hop
  apply BitVec.eq_of_toNat_eq
  rw [wordA_toNat, opField_toNat, nnnField_toNat]
  omega

theorem wordXK_fields (hop : opField w = op) (hkk : kkField w = kk) : wordXK op (xField w) kk = w := by
  subst hop hkk
  apply BitVec.eq_of_toNat_eq
  rw [wordXK_toNat, opField_toNat, xField_toNat, kkField_toNat]
  omega

theorem wordXYN_fields (hop : opField w = op) (hn : nField w = n) : wordXYN op (xField w) (yField w) n = w := by
  subst hop hn
  apply BitVec.eq_of_toNat_eq
  rw [wordXYN_toNat, opField_toNat, xField_toNat, yField_toNat, nField_toNat]
  omega

end Packing

/-! ## The invalid space (R98-R102) -/

theorem matchesNoOperation_iff (w : Word) : matchesNoOperation w = true ↔
    (opField w = 0x5#4 ∧ nField w ≠ 0#4) ∨ (opField w = 0x8#4 ∧ nField w ∉ family8Nibbles) ∨ (opField w = 0x9#4 ∧ nField w ≠ 0#4) ∨
      (opField w = 0xE#4 ∧ kkField w ∉ familyEBytes) ∨ (opField w = 0xF#4 ∧ kkField w ∉ familyFBytes) := by
  simp [matchesNoOperation, opField, nField, kkField, or_assoc]

theorem decodeFamily8_of_not_mem {w : Word} (h : nField w ∉ family8Nibbles) : decodeFamily8 w = .invalid w := by
  unfold decodeFamily8
  split
  case h_10 => rfl
  all_goals next hmem => exact absurd (hmem ▸ by decide) h

theorem decodeFamilyE_of_not_mem {w : Word} (h : kkField w ∉ familyEBytes) : decodeFamilyE w = .invalid w := by
  unfold decodeFamilyE
  split
  case h_3 => rfl
  all_goals next hmem => exact absurd (hmem ▸ by decide) h

theorem decodeFamilyF_of_not_mem {w : Word} (h : kkField w ∉ familyFBytes) : decodeFamilyF w = .invalid w := by
  unfold decodeFamilyF
  split
  case h_10 => rfl
  all_goals next hmem => exact absurd (hmem ▸ by decide) h

theorem decode_of_matchesNoOperation {w : Word} (h : matchesNoOperation w = true) : decode w = .invalid w := by
  obtain ⟨hop, hn⟩ | ⟨hop, hn⟩ | ⟨hop, hn⟩ | ⟨hop, hkk⟩ | ⟨hop, hkk⟩ := (matchesNoOperation_iff w).1 h
  · simp [decode, hop, hn]
  · simp [decode, hop, decodeFamily8_of_not_mem hn]
  · simp [decode, hop, hn]
  · simp [decode, hop, decodeFamilyE_of_not_mem hkk]
  · simp [decode, hop, decodeFamilyF_of_not_mem hkk]

/-! ## The word of what the decoder answers -/

/-- i is well formed, and w is its word. -/
def Instr.Encodes (i : Instr) (w : Word) : Prop := i.wellFormed = true ∧ encode i = w

section Families

variable {w : Word}

theorem decodeFamily0_encodes (hop : opField w = 0x0#4) : (decodeFamily0 w).Encodes w := by
  have hw : wordA 0x0 (nnnField w) = w := wordA_fields hop
  unfold decodeFamily0
  split
  · next h => exact ⟨rfl, h.symm⟩
  · next hcls =>
    split
    · next h => exact ⟨rfl, h.symm⟩
    · next hret =>
      have hnotCls : nnnField w ≠ 0x0E0#12 := fun h => hcls (by rw [← hw, h]; rfl)
      have hnotRet : nnnField w ≠ 0x0EE#12 := fun h => hret (by rw [← hw, h]; rfl)
      exact ⟨by simp [Instr.wellFormed, hnotCls, hnotRet], hw⟩

theorem decodeFamily8_encodes (hop : opField w = 0x8#4) : (decodeFamily8 w).Encodes w := by
  unfold decodeFamily8
  split
  case h_10 => exact ⟨(matchesNoOperation_iff w).2 (.inr (.inl ⟨hop, by simp_all [family8Nibbles]⟩)), rfl⟩
  all_goals exact ⟨rfl, wordXYN_fields hop ‹_›⟩

theorem decodeFamilyE_encodes (hop : opField w = 0xE#4) : (decodeFamilyE w).Encodes w := by
  unfold decodeFamilyE
  split
  case h_3 =>
    exact ⟨(matchesNoOperation_iff w).2 (.inr (.inr (.inr (.inl ⟨hop, by simp_all [familyEBytes]⟩)))), rfl⟩
  all_goals exact ⟨rfl, wordXK_fields hop ‹_›⟩

theorem decodeFamilyF_encodes (hop : opField w = 0xF#4) : (decodeFamilyF w).Encodes w := by
  unfold decodeFamilyF
  split
  case h_10 =>
    exact ⟨(matchesNoOperation_iff w).2 (.inr (.inr (.inr (.inr ⟨hop, by simp_all [familyFBytes]⟩)))), rfl⟩
  all_goals exact ⟨rfl, wordXK_fields hop ‹_›⟩

/-- Family by family, with one row or a sub-decoder each. -/
theorem decode_encodes (w : Word) : (decode w).Encodes w := by
  unfold decode
  split
  case h_1 hop => exact decodeFamily0_encodes hop
  case h_2 hop => exact ⟨rfl, wordA_fields hop⟩
  case h_3 hop => exact ⟨rfl, wordA_fields hop⟩
  case h_4 hop => exact ⟨rfl, wordXK_fields hop rfl⟩
  case h_5 hop => exact ⟨rfl, wordXK_fields hop rfl⟩
  case h_6 hop =>
    split
    · next hn => exact ⟨rfl, wordXYN_fields hop hn⟩
    · next hn => exact ⟨(matchesNoOperation_iff w).2 (.inl ⟨hop, hn⟩), rfl⟩
  case h_7 hop => exact ⟨rfl, wordXK_fields hop rfl⟩
  case h_8 hop => exact ⟨rfl, wordXK_fields hop rfl⟩
  case h_9 hop => exact decodeFamily8_encodes hop
  case h_10 hop =>
    split
    · next hn => exact ⟨rfl, wordXYN_fields hop hn⟩
    · next hn => exact ⟨(matchesNoOperation_iff w).2 (.inr (.inr (.inl ⟨hop, hn⟩))), rfl⟩
  case h_11 hop => exact ⟨rfl, wordA_fields hop⟩
  case h_12 hop => exact ⟨rfl, wordA_fields hop⟩
  case h_13 hop => exact ⟨rfl, wordXK_fields hop rfl⟩
  case h_14 hop => exact ⟨rfl, wordXYN_fields hop rfl⟩
  case h_15 hop => exact decodeFamilyE_encodes hop
  case h_16 =>
    have hop : opField w = 0xF#4 := by
      simp only [imp_false] at *
      bv_omega
    exact decodeFamilyF_encodes hop

end Families

/-- Settles O3: each branch of the decoder answers an instruction that encodes the word it read. -/
theorem encodeOfDecodeIsIdentity : Obligations.EncodeOfDecodeIsIdentity := by
  intro w
  obtain ⟨hwf, hword⟩ := decode_encodes w
  refine ⟨hwf, hword, fun hi lo rest h => ?_⟩
  have hbytes : wordOfBytes hi lo = w := BitVec.eq_of_toNat_eq (by rw [wordOfBytes_toNat, h, Nat.mul_comm])
  rw [decodeBytes, hbytes]

/-- Settles O2, row by row of the opcode map. -/
theorem decodeOfEncodeIsIdentity : Obligations.DecodeOfEncodeIsIdentity
  | .cls, _ => decode_cls
  | .ret, _ => decode_ret
  | .jp nnn, _ => decode_jp nnn
  | .call nnn, _ => decode_call nnn
  | .seImm x kk, _ => decode_seImm x kk
  | .sneImm x kk, _ => decode_sneImm x kk
  | .seReg x y, _ => decode_seReg x y
  | .ldImm x kk, _ => decode_ldImm x kk
  | .addImm x kk, _ => decode_addImm x kk
  | .ldReg x y, _ => decode_ldReg x y
  | .orReg x y, _ => decode_orReg x y
  | .andReg x y, _ => decode_andReg x y
  | .xorReg x y, _ => decode_xorReg x y
  | .addReg x y, _ => decode_addReg x y
  | .sub x y, _ => decode_sub x y
  | .shr x y, _ => decode_shr x y
  | .subn x y, _ => decode_subn x y
  | .shl x y, _ => decode_shl x y
  | .sneReg x y, _ => decode_sneReg x y
  | .ldI nnn, _ => decode_ldI nnn
  | .jpV0 nnn, _ => decode_jpV0 nnn
  | .rnd x kk, _ => decode_rnd x kk
  | .drw x y n, _ => decode_drw x y n
  | .skp x, _ => decode_skp x
  | .sknp x, _ => decode_sknp x
  | .ldVxDt x, _ => decode_ldVxDt x
  | .ldVxK x, _ => decode_ldVxK x
  | .ldDtVx x, _ => decode_ldDtVx x
  | .ldStVx x, _ => decode_ldStVx x
  | .addI x, _ => decode_addI x
  | .ldF x, _ => decode_ldF x
  | .ldB x, _ => decode_ldB x
  | .ldMemVx x, _ => decode_ldMemVx x
  | .ldVxMem x, _ => decode_ldVxMem x
  | .sys _, h => decode_sys h
  | .invalid _, h => decode_of_matchesNoOperation h

/-! ## The statements about the invalid space and about fixed words -/

theorem decode_eq_invalid_iff (w : Word) : (∃ u, decode w = .invalid u) ↔ matchesNoOperation w = true := by
  constructor
  · rintro ⟨u, hu⟩
    obtain ⟨hwf, hword⟩ := hu ▸ decode_encodes w
    obtain rfl : u = w := hword
    exact hwf
  · exact fun h => ⟨w, decode_of_matchesNoOperation h⟩

theorem not_mem_family8Nibbles (n : Nibble) : n ∉ family8Nibbles ↔ 8 ≤ n.toNat ∧ n.toNat ≠ 0xE := by
  revert n
  decide

theorem not_mem_familyEBytes (kk : Byte) : kk ∉ familyEBytes ↔ kk.toNat ≠ 0x9E ∧ kk.toNat ≠ 0xA1 := by
  simp [familyEBytes, ← BitVec.toNat_inj]

theorem not_mem_familyFBytes (kk : Byte) : kk ∉ familyFBytes ↔
    kk.toNat ≠ 0x07 ∧ kk.toNat ≠ 0x0A ∧ kk.toNat ≠ 0x15 ∧ kk.toNat ≠ 0x18 ∧ kk.toNat ≠ 0x1E ∧ kk.toNat ≠ 0x29 ∧
      kk.toNat ≠ 0x33 ∧ kk.toNat ≠ 0x55 ∧ kk.toNat ≠ 0x65 := by
  simp [familyFBytes, ← BitVec.toNat_inj]

/-- Settles O4: a word decodes to `invalid` exactly when it matches no operation, and its fields are the digits of its number. -/
theorem invalidSpaceIsExact : Obligations.InvalidSpaceIsExact := by
  intro w
  rw [decode_eq_invalid_iff, matchesNoOperation_iff]
  simp only [not_mem_family8Nibbles, not_mem_familyEBytes, not_mem_familyFBytes, ne_eq, ← BitVec.toNat_inj,
    opField_toNat, nField_toNat, kkField_toNat, BitVec.toNat_ofNat]

/-- Settles O1: each word is the packing of its row with literal operands; the two invalid ones match no operation. -/
theorem specWordsDecode : Obligations.SpecWordsDecode :=
  ⟨decode_cls, decode_jp 0xABC, decode_ldImm 0xA 0x11, decode_drw 0 1 2, decode_ret, decode_sys (nnn := 0x0E1) rfl,
    decode_call 0xFFF, decode_seImm 0xF 0x01, decode_sneImm 0 0, decode_addImm 0xF 0xFF, decode_sneReg 0xA 0xB,
    decode_jpV0 0x123, decode_seReg 1 2, decode_of_matchesNoOperation rfl, decode_sub 0xA 0xB, decode_shl 0xA 0xB,
    decode_ldI 0x123, decode_rnd 3 0xFF, decode_sknp 0, decode_ldMemVx 0, decode_of_matchesNoOperation rfl⟩

end Sys2Proof
end

section
/-! Control transfer (40_control_flow.md): the bounds of the PC over every step, what a cycle runs, and what the jumps, the skips, CALL, RET
and SYS do. A cycle executes only where its fetch check has passed, so that no sum of the PC wraps (R115). -/

namespace Sys2Proof.Machine

/-! ## What a transfer writes -/

/-- Both settings of the check bound the PC a cycle executes at (20_memory.md R69). -/
theorem pc_le_of_fetchCheck {c : FetchCheck} {pc : Word} (h : fetchCheck c pc = true) : pc.toNat ≤ 0xFFE := by
  cases c with
  | strict => exact ((fetchCheck_strict pc).1 h).2.2
  | boundsOnly => exact (fetchCheck_boundsOnly pc).1 h

theorem pc_le_of_fetch {s : State} {w : Word} (h : fetch s = some w) : s.pc.toNat ≤ 0xFFE := by
  by_contra hpc
  have hcheck : ¬fetchCheck s.cfg.fetchCheck s.pc = true := fun hc => hpc (pc_le_of_fetchCheck hc)
  rw [fetch_of_not_check hcheck] at h
  cases h

/-- A target nnn keeps its value as a PC (R119, R120). -/
theorem toNat_target (nnn : Imm12) : (nnn.zeroExtend 16).toNat = nnn.toNat :=
  BitVec.toNat_setWidth_of_le (by decide)

/-- The target of JP V0, nnn does not wrap (R125). -/
theorem toNat_offsetTarget (nnn : Imm12) (b : Byte) :
    (nnn.zeroExtend 16 + b.zeroExtend 16).toNat = nnn.toNat + b.toNat := by
  bv_omega

/-- The PC alone is written, as by every jump, every skip and the advance itself. -/
theorem State.setPc_unchanged (s : State) (w : Word) : Unchanged [] [] s (s.setPc w) :=
  ⟨fun _ _ => rfl, by constructor <;> simp⟩

/-- The stack and the PC alone are written, as by CALL and RET. -/
theorem State.setStack_setPc_unchanged (s : State) (e : Vector Word 16) (sp : Fin 17) (w : Word) :
    Unchanged [] [.stack] s ((s.setStack e sp).setPc w) :=
  ⟨fun _ _ => rfl, by constructor <;> simp⟩

theorem State.setSchedule_unchanged (s : State) (es : List HostEvent) : Unchanged [] [.schedule] s (s.setSchedule es) :=
  ⟨fun _ _ => rfl, by constructor <;> simp⟩

theorem Frame.trans {parts : List Part} {s t u : State} (hst : Frame parts s t) (htu : Frame parts t u) : Frame parts s u where
  index h := (htu.index h).trans (hst.index h)
  stack h := ⟨(htu.stack h).1.trans (hst.stack h).1, fun j => ((htu.stack h).2 j).trans ((hst.stack h).2 j)⟩
  delay h := (htu.delay h).trans (hst.delay h)
  sound h := (htu.sound h).trans (hst.sound h)
  display h px py := (htu.display h px py).trans (hst.display h px py)
  keypad h k := (htu.keypad h k).trans (hst.keypad h k)
  memory h a := (htu.memory h a).trans (hst.memory h a)
  latch h := ⟨(htu.latch h).1.trans (hst.latch h).1, (htu.latch h).2.trans (hst.latch h).2⟩
  schedule h := (htu.schedule h).trans (hst.schedule h)
  random h := ⟨(htu.random h).1.trans (hst.random h).1, (htu.random h).2.trans (hst.random h).2⟩
  config := htu.config.trans hst.config

theorem Unchanged.trans {regs : List Nibble} {parts : List Part} {s t u : State} (hst : Unchanged regs parts s t)
    (htu : Unchanged regs parts t u) : Unchanged regs parts s u :=
  ⟨fun r hr => (htu.1 r hr).trans (hst.1 r hr), hst.2.trans htu.2⟩

/-! ## Every step keeps the bounds of the PC -/

namespace State.pcBounded

variable {s : State}

/-- The bounds speak of the PC and the stack's entries alone. -/
theorem of_same_stack {t : State} (h : s.pcBounded) (hpc : t.pc.toNat ≤ 0x10FE)
    (hstack : ∀ j, t.stackEntry j = s.stackEntry j) : t.pcBounded :=
  ⟨hpc, fun j => hstack j ▸ h.2 j⟩

theorem setPc (h : s.pcBounded) {w : Word} (hw : w.toNat ≤ 0x10FE) : (s.setPc w).pcBounded :=
  h.of_same_stack hw fun _ => rfl

theorem advance (h : s.pcBounded) (hpc : s.pc.toNat ≤ 0xFFE) : s.advance.pcBounded :=
  h.setPc (by bv_omega)

theorem skipIf (h : s.pcBounded) (hpc : s.pc.toNat ≤ 0xFFE) (c : Bool) : (s.skipIf c).pcBounded := by
  cases c with
  | false => exact h.setPc (w := s.pc + 2) (by bv_omega)
  | true => exact h.setPc (w := s.pc + 4) (by bv_omega)

/-- A target of 12 bits lies below the bound. -/
theorem jump (h : s.pcBounded) (nnn : Imm12) : (s.setPc (nnn.zeroExtend 16)).pcBounded :=
  h.setPc (by rw [toNat_target]; omega)

/-- What CALL pushes is the PC after a fetched instruction, which is at most 0x1000. -/
theorem pushReturn (h : s.pcBounded) (hpc : s.pc.toNat ≤ 0xFFE) {n : Nat} (hn : n < 16) (sp : Fin 17) :
    (s.setStack (s.stack.set n (s.pc + 2) hn) sp).pcBounded := by
  refine ⟨h.1, fun j => ?_⟩
  rw [State.stackEntry_setStack_set]
  split
  · bv_omega
  · exact h.2 j

/-- RET goes to one of the entries. -/
theorem popReturn (h : s.pcBounded) (j : Fin 16) (sp : Fin 17) :
    ((s.setStack s.stack sp).setPc (s.stackEntry j)).pcBounded :=
  h.of_same_stack (Nat.le_trans (h.2 j) (by decide)) fun _ => rfl

end State.pcBounded

/-- An instruction executed where a fetch succeeds keeps the bounds: it stays, advances, skips, jumps, or moves a return address. -/
theorem exec_keeps_pcBounded (i : Instr) {s : State} (h : s.pcBounded) (hpc : s.pc.toNat ≤ 0xFFE) :
    OnNext State.pcBounded (exec i s) := by
  have advanced : s.advance.pcBounded := h.advance hpc
  cases i with
  | ret => exact .exec_ret (fun _ => h) fun _ => h.popReturn _ _
  | call nnn => exact .exec_call (fun _ => h) fun hroom => (h.pushReturn hpc hroom _).jump nnn
  | jp nnn => exact .next (h.jump nnn)
  | jpV0 nnn => exact .next (h.setPc (by rw [toNat_offsetTarget]; omega))
  | seImm | sneImm | seReg | sneReg => exact .next (h.skipIf hpc _)
  | skp x => exact .exec_skp (fun _ => h) fun _ _ => h.skipIf hpc _
  | sknp x => exact .exec_sknp (fun _ => h) fun _ _ => h.skipIf hpc _
  | sys nnn => exact .exec_sys (fun _ => h) fun _ => advanced
  | invalid w => exact .next h
  | ldVxK x => exact .exec_ldVxK (fun _ => h) fun _ _ => advanced
  | drw x y n => exact .exec_drw (fun _ => advanced) fun _ => h
  | ldB x => exact .exec_ldB (fun _ => advanced) fun _ => h
  | ldMemVx x => exact .exec_ldMemVx (fun _ => advanced) fun _ => h
  | ldVxMem x => exact .exec_ldVxMem (fun _ => advanced.of_same_stack (by simpa using advanced.1) (by simp)) fun _ => h
  | rnd x kk => exact .next (advanced.of_same_stack (by simpa using advanced.1) (by simp))
  | _ => exact .next advanced

theorem cycle_keeps_pcBounded {s : State} (h : s.pcBounded) : OnNext State.pcBounded (cycle s) :=
  .cycle (fun _ => h) (fun _ _ => h) fun w _ hfetch => exec_keeps_pcBounded (decode w) h (pc_le_of_fetch hfetch)

/-- The other agents reach neither the PC nor the stack, but for a reset, which sets both as `State.reset` has them. -/
theorem agentStep_keeps_pcBounded (e : HostEvent) {s : State} (h : s.pcBounded) : OnNext State.pcBounded (agentStep e s) := by
  cases e with
  | cycle => exact cycle_keeps_pcBounded h
  | tick => exact .next h
  | key k pressed => exact .next h
  | reset font rom => exact .hostReset fun _ => invariantsHoldAtReset.2

/-- Settles O52: the step is a cycle or an agent's step, and each of them keeps the bounds. -/
theorem stepKeepsThePcBounds : Obligations.StepKeepsThePcBounds := fun _ t h =>
  OnNext.step (fun _ => cycle_keeps_pcBounded h) (fun e _ _ => agentStep_keeps_pcBounded e h) t

/-! ## The cycle -/

theorem traceOut_of_running {s : State} (hrun : s.halted = false) : traceOut s = (fetch s).map fun w => (w, decode w) := by
  simp [traceOut, hrun]

/-- The word that stands at an address is the one fetched there (20_memory.md R66). -/
theorem WordAt.fetchWord_eq {m : Memory} {a : Nat} {w : Word} (h : WordAt m a w) : fetchWord m a = w :=
  BitVec.eq_of_toNat_eq ((fetchIsBigEndian m a).trans (Eq.symm h))

/-- Settles O5: the step is the cycle on c, whose check decides between the fault of the fetch and the instruction fetched. -/
theorem stepRunsTheDecodedInstruction : Obligations.StepRunsTheDecodedInstruction := by
  intro s c hnext hrun
  rw [step_of_cycleIsNext hnext, traceOut_of_running hrun]
  constructor
  · intro hbad
    have hfetch : fetch c = none := fetch_of_not_check (by simp [hbad])
    exact ⟨by rw [hfetch]; rfl, _, cycle_of_fetch_none hrun hfetch, c.takeFault_faulted _ _⟩
  · rintro hgood w _ hword rfl
    have hfetch : fetch c = some w := hword.fetchWord_eq ▸ fetch_of_check hgood
    exact ⟨by rw [hfetch]; rfl, cycle_of_fetch hrun hfetch⟩

theorem CycleIsNext.eq_setSchedule {s c : State} (h : CycleIsNext s c) : ∃ es, c = s.setSchedule es := by
  obtain ⟨-, rfl⟩ | ⟨rest, -, rfl⟩ := h
  · exact ⟨c.schedule, rfl⟩
  · exact ⟨rest, rfl⟩

/-- Settles O8: c is s but for its schedule, so it is halted too, and its cycle, its report and its trace are those of a halted core. -/
theorem haltedCoreIgnoresCycles : Obligations.HaltedCoreIgnoresCycles := by
  intro s c hnext hhalt
  rw [step_of_cycleIsNext hnext]
  obtain ⟨es, rfl⟩ := hnext.eq_setSchedule
  exact ⟨if_pos hhalt, rfl, s.setSchedule_unchanged es, if_pos hhalt, if_pos hhalt⟩

/-! ## SYS -/

theorem exec_sys_of_fault {s : State} (nnn : Imm12) (h : s.cfg.sysMode = .fault) :
    exec (.sys nnn) s = .next (s.takeFault .unimplementedOpcode (some (encode (.sys nnn)))) := by
  simp only [exec, execSys, h, raise]

theorem exec_sys_of_nop {s : State} (nnn : Imm12) (h : s.cfg.sysMode = .nop) : exec (.sys nnn) s = .next s.advance := by
  simp only [exec, execSys, h]

/-- Settles O13, mode by mode. -/
theorem sysFaultsOrAdvances : Obligations.SysFaultsOrAdvances := by
  intro nnn s hcls hret
  refine ⟨decode_sys (by simpa [Instr.wellFormed] using ⟨hcls, hret⟩), fun hfault => ?_, fun hnop => ?_⟩
  · exact ⟨_, exec_sys_of_fault nnn hfault, s.takeFault_faulted _ _⟩
  · exact ⟨_, exec_sys_of_nop nnn hnop, rfl, s.setPc_unchanged _⟩

/-! ## CALL and RET -/

theorem exec_ret_of_empty {s : State} (h : s.sp.val = 0) :
    exec .ret s = .next (s.takeFault .stackUnderflow (some (encode .ret))) := by
  simp [exec, execRet, State.pop, h, raise]

/-- RET goes to the topmost entry and leaves it where it is (R118). -/
theorem exec_ret_of_sp_eq_succ {s : State} {j : Fin 16} (h : s.sp.val = j.val + 1) :
    exec .ret s = .next ((s.setStack s.stack j.castSucc).setPc (s.stackEntry j)) := by
  simp [exec, execRet, State.pop, h, Fin.castSucc, Fin.castAdd, Fin.castLE]

/-- CALL writes the first free entry (R120). -/
theorem exec_call_of_sp_eq {s : State} {j : Fin 16} (nnn : Imm12) (h : s.sp.val = j.val) :
    exec (.call nnn) s =
      .next ((s.setStack (s.stack.set j.val (s.pc + 2) j.isLt) j.succ).setPc (nnn.zeroExtend 16)) := by
  simp [exec, execCall, State.push, h, Fin.succ]

/-- Settles O14: the entry below SP is popped and kept, and with none the underflow is latched. -/
theorem returnPopsThePc : Obligations.ReturnPopsThePc := by
  refine ⟨decode_ret, fun s j hsp => ?_, fun s hempty => ?_⟩
  · exact ⟨_, exec_ret_of_sp_eq_succ hsp, rfl, rfl, fun _ => rfl, s.setStack_setPc_unchanged _ _ _⟩
  · exact ⟨_, exec_ret_of_empty hempty, s.takeFault_faulted _ _⟩

/-- Settles O16: the entry at SP takes the return address, and an entry read after that is the one written or an old one. -/
theorem callPushesAndJumps : Obligations.CallPushesAndJumps := by
  intro nnn s j hsp
  have hentry (k : Fin 16) := s.stackEntry_setStack_set (s.pc + 2) j.val j.isLt j.succ k
  refine ⟨decode_call nnn, _, exec_call_of_sp_eq nnn hsp, ?_, fun k hk => ?_, rfl, toNat_target nnn, s.setStack_setPc_unchanged _ _ _⟩
  · exact (hentry j).trans (if_pos rfl)
  · exact (hentry k).trans (if_neg (Fin.val_ne_of_ne hk))

/-- Settles O18: the entry RET pops is the one CALL has pushed, and neither writes anything but the stack and the PC. -/
theorem returnUndoesCall : Obligations.ReturnUndoesCall := by
  intro nnn s t hroom hcall
  obtain ⟨-, t', ht', hpushed, hothers, hsp, -, hst⟩ := callPushesAndJumps nnn s ⟨s.sp.val, hroom⟩ rfl
  obtain rfl : t' = t := by simpa [hcall] using ht'.symm
  obtain ⟨u, hret, hpc, husp, hkept, htu⟩ := returnPopsThePc.2.1 t' ⟨s.sp.val, hroom⟩ hsp
  refine ⟨u, hret, hpc.trans hpushed, Fin.ext husp, hst.trans htu, fun k hk => ?_⟩
  exact (hkept k).trans (hothers k (Fin.ne_of_lt hk))

/-! ## Jumps -/

/-- Settles O15: the target is zero-extended to the width of the PC. -/
theorem jumpSetsThePc : Obligations.JumpSetsThePc := fun nnn s =>
  ⟨decode_jp nnn, _, rfl, toNat_target nnn, s.setPc_unchanged _⟩

/-- Settles O21: the exact sum is at most 0xFFF + 0xFF. -/
theorem jumpWithOffsetAddsV0 : Obligations.JumpWithOffsetAddsV0 := by
  intro nnn s
  have hsum := toNat_offsetTarget nnn (s.readV 0)
  refine ⟨decode_jpV0 nnn, _, rfl, hsum, ?_, s.setPc_unchanged _⟩
  exact hsum.trans_le (by omega)

/-! ## Skips -/

/-- A skip whose condition is the proposition p goes where p says, and writes the PC alone (R114). -/
theorem State.skipIf_of_iff (s : State) {c : Bool} {p : Prop} [Decidable p] (h : c = true ↔ p) :
    (s.skipIf c).pc = (if p then s.pc + 4 else s.pc + 2) ∧ Unchanged [] [] s (s.skipIf c) :=
  ⟨if_congr h rfl rfl, s.setPc_unchanged _⟩

/-- Settles O19: both are skips, on equality and on its negation. -/
theorem skipsOnAnImmediate : Obligations.SkipsOnAnImmediate := fun x kk s =>
  ⟨decode_seImm x kk, decode_sneImm x kk, ⟨_, rfl, s.skipIf_of_iff beq_iff_eq⟩, ⟨_, rfl, s.skipIf_of_iff bne_iff_ne⟩⟩

/-- 5xyN and 9xyN with N ≠ 0 match no operation (30_encoding.md R98, R100). -/
theorem matchesNoOperation_wordXYN {op n : Nibble} (x y : Nibble) (hop : op = 0x5#4 ∨ op = 0x9#4) (hn : n ≠ 0) :
    matchesNoOperation (wordXYN op x y n) = true := by
  rw [matchesNoOperation_iff]
  obtain rfl | rfl := hop <;> simpa using hn

/-- Settles O20: both are skips as with an immediate, and a low nibble other than 0 matches no operation. -/
theorem skipsOnTwoRegisters : Obligations.SkipsOnTwoRegisters := by
  intro x y s
  refine ⟨decode_seReg x y, decode_sneReg x y, fun n hn => ⟨?_, ?_⟩, ⟨_, rfl, s.skipIf_of_iff beq_iff_eq⟩,
    ⟨_, rfl, s.skipIf_of_iff bne_iff_ne⟩⟩
  · exact decode_of_matchesNoOperation (matchesNoOperation_wordXYN x y (.inl rfl) hn)
  · exact decode_of_matchesNoOperation (matchesNoOperation_wordXYN x y (.inr rfl) hn)

end Sys2Proof.Machine
end

section
/-! The register and ALU instructions (41_alu.md). Every one of them is a write of its result, with a flag after it or without, so its proof
is the value of the result, the value of the flag, and what the write leaves alone. -/

namespace Sys2Proof.Machine

/-! ## What the writes leave alone -/

/-- A result with no flag writes its register and the PC. -/
theorem State.writeResult_unchanged (s : State) (x : Nibble) (b : Byte) (parts : List Part) :
    Unchanged [x] parts s (s.writeResult x b) := by
  refine ⟨fun r hr => ?_, by constructor <;> simp⟩
  rw [State.writeResult_readV, if_neg (List.ne_of_not_mem_cons hr)]

/-- A result and its flag write the result's register, VF and the PC. -/
theorem State.writeResultAndFlag_unchanged (s : State) (x : Nibble) (b : Byte) (f : Bool) :
    Unchanged [x, 0xF] [] s (s.writeResultAndFlag x b f) := by
  refine ⟨fun r hr => ?_, by constructor <;> simp⟩
  obtain ⟨hx, hflag⟩ : r ≠ x ∧ r ≠ flagReg := by simpa [flagReg] using hr
  rw [State.writeResultAndFlag_readV, if_neg hflag, if_neg hx]

/-- A draw writes the random port alone. -/
theorem State.dropRand_unchanged (s : State) (regs : List Nibble) : Unchanged regs [.random] s s.dropRand :=
  ⟨fun r _ => s.dropRand_readV r, by constructor <;> simp⟩

/-! ## What the writes put there -/

theorem State.readV_writeResult_same (s : State) (x : Nibble) (b : Byte) : (s.writeResult x b).readV x = b := by
  rw [State.writeResult_readV, if_pos rfl]

theorem State.readV_writeResultAndFlag_same (s : State) {x : Nibble} (b : Byte) (f : Bool) (hx : x ≠ flagReg) :
    (s.writeResultAndFlag x b f).readV x = b := by
  rw [State.writeResultAndFlag_readV, if_neg hx, if_pos rfl]

/-- VF takes the flag whatever x is (10_state.md R34). -/
theorem State.readV_writeResultAndFlag_flag (s : State) (x : Nibble) (b : Byte) (f : Bool) :
    (s.writeResultAndFlag x b f).readV 0xF = flagByte f := by
  rw [State.writeResultAndFlag_readV]
  exact if_pos rfl

/-! ## Loads and ADD with an immediate -/

/-- Settles O23: both write a result with no flag. -/
theorem loadsSetTheRegister : Obligations.LoadsSetTheRegister := fun x y kk s =>
  ⟨decode_ldImm x kk, decode_ldReg x y,
    ⟨_, rfl, s.readV_writeResult_same x kk, rfl, s.writeResult_unchanged x kk []⟩,
    ⟨_, rfl, s.readV_writeResult_same x _, rfl, s.writeResult_unchanged x _ []⟩⟩

/-- Settles O24: a sum of bytes wraps mod 256 (R140), and it is written with no flag. -/
theorem addImmediateWrapsWithoutAFlag : Obligations.AddImmediateWrapsWithoutAFlag := by
  intro x kk s
  refine ⟨decode_addImm x kk, _, rfl, ?_, rfl, s.writeResult_unchanged x _ []⟩
  rw [State.readV_writeResult_same, BitVec.toNat_add]

/-! ## Logic -/

/-- Settles O25: each writes, with no flag, the operation on bytes, whose bits are the operation on bits. -/
theorem logicIsBitwise : Obligations.LogicIsBitwise := by
  intro x y s
  refine ⟨decode_orReg x y, decode_andReg x y, decode_xorReg x y,
    ⟨_, rfl, fun k => ?_, rfl, s.writeResult_unchanged x _ []⟩,
    ⟨_, rfl, fun k => ?_, rfl, s.writeResult_unchanged x _ []⟩,
    ⟨_, rfl, fun k => ?_, rfl, s.writeResult_unchanged x _ []⟩⟩
  · rw [State.readV_writeResult_same, BitVec.getLsbD_or]
  · rw [State.readV_writeResult_same, BitVec.getLsbD_and]
  · rw [State.readV_writeResult_same, BitVec.getLsbD_xor]

/-! ## ADD, SUB and SUBN -/

theorem flagByte_decide (p : Prop) [Decidable p] : flagByte (decide p) = if p then 1 else 0 :=
  if_congr decide_eq_true_iff rfl rfl

/-- Settles O26: the result is the sum of bytes, and the flag is decided on the exact sum. -/
theorem addRegisterSetsTheCarry : Obligations.AddRegisterSetsTheCarry := by
  intro x y s
  refine ⟨decode_addReg x y, _, rfl, fun hx => ?_, ?_, rfl, s.writeResultAndFlag_unchanged x _ _⟩
  · rw [s.readV_writeResultAndFlag_same _ _ hx, BitVec.toNat_add]
  · exact (s.readV_writeResultAndFlag_flag x _ _).trans (flagByte_decide _)

/-- What the write of a − b and its no-borrow flag leaves: SUB and SUBN differ only in which register is a (R149, R151). -/
theorem State.writeDifference_spec (s : State) (x : Nibble) (a b : Byte) :
    let t := s.writeResultAndFlag x (a - b) (noBorrow a b)
    (x ≠ 0xF → (t.readV x).toNat = (a.toNat + 256 - b.toNat) % 256) ∧
    t.readV 0xF = (if a.toNat ≥ b.toNat then 1 else 0) ∧ t.pc = s.pc + 2 ∧ Unchanged [x, 0xF] [] s t := by
  refine ⟨fun hx => ?_, ?_, rfl, s.writeResultAndFlag_unchanged x _ _⟩
  · rw [s.readV_writeResultAndFlag_same _ _ hx]
    bv_omega
  · exact (s.readV_writeResultAndFlag_flag x _ _).trans (flagByte_decide _)

/-- Settles O27: SUB takes Vy from Vx, and SUBN takes Vx from Vy. -/
theorem subtractsSetNoBorrow : Obligations.SubtractsSetNoBorrow := fun x y s =>
  ⟨decode_sub x y, decode_subn x y, ⟨_, rfl, s.writeDifference_spec x (s.readV x) (s.readV y)⟩,
    ⟨_, rfl, s.writeDifference_spec x (s.readV y) (s.readV x)⟩⟩

/-! ## Shifts -/

/-- The register that `SHIFT_SOURCE` names (R15). -/
theorem shiftOperand_eq_ite (s : State) (x y : Nibble) :
    shiftOperand s x y = if s.cfg.shiftSource = .vx then s.readV x else s.readV y := by
  cases h : s.cfg.shiftSource <;> simp [shiftOperand, h]

/-- A flag of one bit of a byte is that bit (R33). -/
theorem toNat_flagByte_getLsbD (a : Byte) (k : Nat) : (flagByte (a.getLsbD k)).toNat = a.toNat / 2 ^ k % 2 := by
  rw [BitVec.getLsbD, Nat.testBit_eq_decide_div_mod_eq, flagByte_decide]
  split
  next h => exact h.symm
  next h => exact (Nat.mod_two_ne_one.1 h).symm

/-- Bit 7 is all that is left of a byte above its low seven bits. -/
theorem toNat_flagByte_shiftedOutLeft (a : Byte) : (flagByte (shiftedOutLeft a)).toNat = a.toNat / 128 := by
  rw [shiftedOutLeft, toNat_flagByte_getLsbD]
  exact Nat.mod_eq_of_lt (by omega)

theorem toNat_flagByte_shiftedOutRight (a : Byte) : (flagByte (shiftedOutRight a)).toNat = a.toNat % 2 := by
  rw [shiftedOutRight, toNat_flagByte_getLsbD, Nat.pow_zero, Nat.div_one]

/-- Settles O28: both shift the operand `SHIFT_SOURCE` selects, and the flag is the operand's dropped bit. -/
theorem shiftsMoveOneBit : Obligations.ShiftsMoveOneBit := by
  intro x y s
  rw [← shiftOperand_eq_ite]
  refine ⟨decode_shr x y, decode_shl x y,
    ⟨_, rfl, fun hx => ?_, ?_, rfl, s.writeResultAndFlag_unchanged x _ _⟩,
    ⟨_, rfl, fun hx => ?_, ?_, rfl, s.writeResultAndFlag_unchanged x _ _⟩⟩
  · rw [s.readV_writeResultAndFlag_same _ _ hx, BitVec.toNat_ushiftRight, Nat.shiftRight_one]
  · rw [State.readV_writeResultAndFlag_flag, toNat_flagByte_shiftedOutRight]
  · rw [s.readV_writeResultAndFlag_same _ _ hx, BitVec.toNat_shiftLeft, Nat.shiftLeft_eq, Nat.pow_one]
  · rw [State.readV_writeResultAndFlag_flag, toNat_flagByte_shiftedOutLeft]

/-! ## The random byte -/

/-- A draw takes the byte that stands at the port. -/
theorem State.draw_of_randIn_cons {s : State} {b : Byte} {bs : List Byte} (h : s.randIn = b :: bs) :
    s.nextRand = b ∧ s.dropRand.randIn = bs ∧ s.dropRand.draws = s.draws := by
  simp [State.nextRand, State.dropRand, h]

/-- With no byte at the port a draw takes the next free value (D26). -/
theorem State.draw_of_randIn_nil {s : State} (h : s.randIn = []) :
    s.nextRand = Config.rand8 s.draws ∧ s.dropRand.randIn = [] ∧ s.dropRand.draws = s.draws + 1 := by
  simp [State.nextRand, State.dropRand, h]

/-- Settles O29: one draw, then a result with no flag. -/
theorem randomIsMasked : Obligations.RandomIsMasked := by
  intro x kk s
  refine ⟨decode_rnd x kk, s.nextRand, _, rfl, s.dropRand.readV_writeResult_same x _, fun b bs => State.draw_of_randIn_cons,
    State.draw_of_randIn_nil, congrArg (· + 2) s.dropRand_pc, ?_⟩
  exact (s.dropRand_unchanged [x]).trans (s.dropRand.writeResult_unchanged x _ [.random])

end Sys2Proof.Machine
end

section
/-! The index register and the transfers between registers and memory (42_index_memory.md). Each transfer checks its whole range first
(20_memory.md R64), so its proof is the completed transfer inside memory and the fault outside. -/

namespace Sys2Proof.Machine

/-! ## What the instructions leave alone -/

/-- An instruction that sets I writes I and the PC. -/
theorem State.setI_advance_unchanged (s : State) (w : Word) : Unchanged [] [.index] s (s.setI w).advance :=
  ⟨fun _ _ => rfl, by constructor <;> simp⟩

/-- A store writes memory and the PC. -/
theorem State.setMem_advance_unchanged (s : State) (m : Memory) : Unchanged [] [.memory] s (s.setMem m).advance :=
  ⟨fun _ _ => rfl, by constructor <;> simp⟩

/-- A load of registers writes nothing beside the registers and the PC. -/
theorem State.setVs_advance_frame (s : State) (k : Nat) (bs : List Byte) : Frame [] s (s.setVs k bs).advance := by
  constructor <;> simp

/-! ## Instructions that set I -/

/-- Settles O30: I takes the immediate, zero-extended. -/
theorem loadIndexImmediate : Obligations.LoadIndexImmediate := fun nnn s =>
  ⟨decode_ldI nnn, _, rfl, toNat_target nnn, rfl, s.setI_advance_unchanged _⟩

/-- The sum of a word and a byte wraps mod 65536 (R171, D13). -/
theorem toNat_add_zeroExtend (w : Word) (b : Byte) : (w + b.zeroExtend 16).toNat = (w.toNat + b.toNat) % 65536 := by
  rw [BitVec.toNat_add, BitVec.toNat_setWidth_of_le (by decide)]

/-- A glyph's address fits in I (R172). -/
theorem toNat_glyphAddress (b : Byte) : (glyphAddress b).toNat = 0x050 + 5 * (b.toNat % 16) :=
  Nat.mod_eq_of_lt (by omega)

/-- Settles O31: both set I, to a sum of words and to a glyph's address. -/
theorem indexArithmetic : Obligations.IndexArithmetic := fun x s =>
  ⟨decode_addI x, decode_ldF x,
    ⟨_, rfl, toNat_add_zeroExtend s.i (s.readV x), rfl, s.setI_advance_unchanged _⟩,
    ⟨_, rfl, toNat_glyphAddress (s.readV x), rfl, s.setI_advance_unchanged _⟩⟩

/-! ## The transfers, inside memory and outside (R64, D17) -/

theorem exec_ldB_of_rangeOk {x : Nibble} {s : State} (h : rangeOk s.i.toNat 3 = true) :
    exec (.ldB x) s = .next (s.setMem (s.mem.writeBytes s.i.toNat (bcdDigits (s.readV x)))).advance := if_pos h

theorem exec_ldB_of_not_rangeOk {x : Nibble} {s : State} (h : ¬rangeOk s.i.toNat 3 = true) :
    exec (.ldB x) s = .next (s.takeFault .addressFault (some (encode (.ldB x)))) := if_neg h

theorem exec_ldMemVx_of_not_rangeOk {x : Nibble} {s : State} (h : ¬rangeOk s.i.toNat (x.toNat + 1) = true) :
    exec (.ldMemVx x) s = .next (s.takeFault .addressFault (some (encode (.ldMemVx x)))) := if_neg h

theorem exec_ldVxMem_of_rangeOk {x : Nibble} {s : State} (h : rangeOk s.i.toNat (x.toNat + 1) = true) :
    exec (.ldVxMem x) s = .next (s.setVs 0 (s.mem.readBytes s.i.toNat (x.toNat + 1))).advance := if_pos h

theorem exec_ldVxMem_of_not_rangeOk {x : Nibble} {s : State} (h : ¬rangeOk s.i.toNat (x.toNat + 1) = true) :
    exec (.ldVxMem x) s = .next (s.takeFault .addressFault (some (encode (.ldVxMem x)))) := if_neg h

/-! ## LD B, Vx -/

/-- Each digit fits in a byte (R173). -/
theorem toNat_bcdDigits (b : Byte) :
    (bcdDigits b)[0].toNat = b.toNat / 100 ∧ (bcdDigits b)[1].toNat = b.toNat / 10 % 10 ∧
      (bcdDigits b)[2].toNat = b.toNat % 10 :=
  ⟨Nat.mod_eq_of_lt (by omega), Nat.mod_eq_of_lt (by omega), Nat.mod_eq_of_lt (by omega)⟩

/-- Settles O32: the byte stored at I + k is digit k, and outside the three addresses a store changes nothing. -/
theorem bcdStoresThreeDigits : Obligations.BcdStoresThreeDigits := by
  intro x s
  refine ⟨decode_ldB x, fun hin => ?_, fun hout => ?_⟩
  · obtain ⟨hhundreds, htens, hunits⟩ := toNat_bcdDigits (s.readV x)
    have hread (k : Nat) (hk : k < 3) := s.mem.read_writeBytes_inside s.i.toNat (bcdDigits (s.readV x)) hk
    refine ⟨_, exec_ldB_of_rangeOk ((rangeOk_iff _ _).2 (by omega)), ?_, ?_, ?_, fun a ha => ?_, rfl,
      s.setMem_advance_unchanged _⟩
    · exact (congrArg BitVec.toNat (hread 0 (by decide))).trans hhundreds
    · exact (congrArg BitVec.toNat (hread 1 (by decide))).trans htens
    · exact (congrArg BitVec.toNat (hread 2 (by decide))).trans hunits
    · exact Memory.read_writeBytes_outside _ _ _ (by rw [bcdDigits_length]; omega)
  · exact ⟨_, exec_ldB_of_not_rangeOk (by rw [rangeOk_iff]; omega), s.takeFault_faulted _ _⟩

/-! ## LD [I], Vx and LD Vx, [I] -/

/-- Settles O33: the byte stored at I + k is Vk, and outside the x + 1 addresses a store changes nothing. -/
theorem storeRegistersToMemory : Obligations.StoreRegistersToMemory := by
  intro x s
  refine ⟨decode_ldMemVx x, fun hin => ?_, fun hout => ?_⟩
  · refine ⟨_, exec_ldMemVx_of_rangeOk ((rangeOk_iff _ _).2 (by omega)), fun k hk => ?_, fun a ha => ?_, rfl,
      s.setMem_advance_unchanged _⟩
    · have hlen : k.toNat < (s.readVs x).length := by rw [State.readVs_length]; omega
      have hread := s.mem.read_writeBytes_inside s.i.toNat (s.readVs x) hlen
      rwa [State.readVs_getElem, BitVec.ofNat_toNat, BitVec.setWidth_eq] at hread
    · exact Memory.read_writeBytes_outside _ _ _ (by rw [State.readVs_length]; omega)
  · exact ⟨_, exec_ldMemVx_of_not_rangeOk (by rw [rangeOk_iff]; omega), s.takeFault_faulted _ _⟩

/-- What a register reads once V0..Vx are loaded from the bytes at a (R175). -/
theorem State.readV_setVs_readBytes (s : State) (m : Memory) (a : Nat) (x r : Nibble) :
    (s.setVs 0 (m.readBytes a (x.toNat + 1))).readV r = if r.toNat ≤ x.toNat then m.read (a + r.toNat) else s.readV r := by
  have hlen : 0 + (m.readBytes a (x.toNat + 1)).length ≤ 16 := by rw [Memory.readBytes_length]; omega
  rw [State.setVs_readV _ _ _ hlen]
  simp [Memory.readBytes_getElem]

/-- Settles O34: the registers up to Vx take the bytes from I on, and those above keep their values. -/
theorem loadRegistersFromMemory : Obligations.LoadRegistersFromMemory := by
  intro x s
  have hregs := s.readV_setVs_readBytes s.mem s.i.toNat x
  refine ⟨decode_ldVxMem x, fun hin => ?_, fun hout => ?_⟩
  · refine ⟨_, exec_ldVxMem_of_rangeOk ((rangeOk_iff _ _).2 (by omega)), fun k hk => ?_, fun k hk => ?_,
      congrArg (· + 2) (s.setVs_pc _ _), s.setVs_advance_frame _ _⟩
    · exact (hregs k).trans (if_pos hk)
    · exact (hregs k).trans (if_neg (Nat.not_le.2 hk))
  · exact ⟨_, exec_ldVxMem_of_not_rangeOk (by rw [rangeOk_iff]; omega), s.takeFault_faulted _ _⟩

end Sys2Proof.Machine
end

section
/-! The display (43_display.md). A draw is a fold of single pixel inversions, and no two bits of one sprite land on the same pixel, so that the
fold inverts the pixels the sprite covers, each of them once. -/

namespace Sys2Proof.Machine

/-! ## What the blitter does to a display and the collision flag -/

/-- From `before` to `after`, displays with the collision so far, exactly the pixels of `cover` are inverted, and the collision is that of
`before` or a covered pixel that was on (R192, R197). -/
structure Inverts (cover : Fin 64 → Fin 32 → Prop) (before after : Display × Bool) : Prop where
  covered   : ∀ px py, cover px py → after.1.get px py = !before.1.get px py
  uncovered : ∀ px py, ¬cover px py → after.1.get px py = before.1.get px py
  collision : after.2 = true ↔ before.2 = true ∨ ∃ px py, cover px py ∧ before.1.get px py = true

namespace Inverts

variable {C D : Fin 64 → Fin 32 → Prop} {a b c : Display × Bool}

theorem congr (h : Inverts C a b) (hCD : ∀ px py, C px py ↔ D px py) : Inverts D a b := by
  obtain rfl : C = D := funext₂ fun px py => propext (hCD px py)
  exact h

theorem nothing (a : Display × Bool) (hC : ∀ px py, ¬C px py) : Inverts C a a where
  covered px py h := absurd h (hC px py)
  uncovered _ _ _ := rfl
  collision := by simp [hC]

/-- Disjoint sets of pixels inverted one after the other are inverted together: the second finds its pixels as they were. -/
theorem union (hab : Inverts C a b) (hbc : Inverts D b c) (hdisj : ∀ px py, C px py → ¬D px py) :
    Inverts (fun px py => C px py ∨ D px py) a c where
  covered px py h := by
    obtain hC | hD := h
    · rw [hbc.uncovered px py (hdisj px py hC), hab.covered px py hC]
    · rw [hbc.covered px py hD, hab.uncovered px py fun hC => hdisj px py hC hD]
  uncovered px py h := by
    obtain ⟨hC, hD⟩ := not_or.1 h
    rw [hbc.uncovered px py hD, hab.uncovered px py hC]
  collision := by
    have hkept (px py) : D px py ∧ b.1.get px py = true ↔ D px py ∧ a.1.get px py = true :=
      and_congr_right fun hD => by rw [hab.uncovered px py fun hC => hdisj px py hC hD]
    simp only [hbc.collision, hab.collision, hkept, or_and_right, exists_or, or_assoc]

end Inverts

/-! ## One sprite bit, one row, all rows -/

/-- Where a pixel lands under either setting, in the words of `SpriteCovers` (R195, R196). -/
theorem place_iff (wrap : Bool) (cx cy : Nat) (px : Fin 64) (py : Fin 32) :
    place wrap cx cy = some (px, py) ↔
      (wrap = true → cx % 64 = px.val ∧ cy % 32 = py.val) ∧ (wrap = false → cx = px.val ∧ cy = py.val) := by
  cases wrap with
  | true => simp [place_wrap]
  | false => simp [place_clip]

/-- Offsets inside one display's width and height that land on one pixel are the same offsets, wrapped or not. -/
theorem offsets_eq_of_place_eq {wrap : Bool} {ox oy c c' r r' : Nat} {p : Fin 64 × Fin 32} (hc : c < 64) (hc' : c' < 64) (hr : r < 32)
    (hr' : r' < 32) (h : place wrap (ox + c) (oy + r) = some p) (h' : place wrap (ox + c') (oy + r') = some p) : c = c' ∧ r = r' := by
  obtain ⟨px, py⟩ := p
  cases wrap with
  | true => rw [place_wrap] at h h'; omega
  | false => rw [place_clip] at h h'; omega

theorem blitPixel_inverts (wrap : Bool) (cx cy : Nat) (acc : Display × Bool) :
    Inverts (fun px py => place wrap cx cy = some (px, py)) acc (blitPixel wrap cx cy acc) where
  covered px py h := by simp [blitPixel_get, h]
  uncovered px py h := by simp [blitPixel_get, h]
  collision := blitPixel_collision wrap cx cy acc

/-- The first `k` columns of a sprite row, drawn at display row cy, cover a pixel. -/
def RowCovers (wrap : Bool) (ox cy : Nat) (row : Byte) (k : Nat) (px : Fin 64) (py : Fin 32) : Prop :=
  ∃ c < k, spriteBit row c = true ∧ place wrap (ox + c) cy = some (px, py)

theorem rowCovers_succ {wrap : Bool} {ox cy : Nat} {row : Byte} {k : Nat} {px : Fin 64} {py : Fin 32} :
    RowCovers wrap ox cy row (k + 1) px py ↔
      RowCovers wrap ox cy row k px py ∨ spriteBit row k = true ∧ place wrap (ox + k) cy = some (px, py) :=
  Nat.exists_lt_succ_right

/-- Column by column: a column not yet drawn lands on a pixel that no earlier one has. -/
theorem blitColumns_inverts (wrap : Bool) (ox cy : Nat) (row : Byte) (acc : Display × Bool) {k : Nat} (hk : k ≤ 64) :
    Inverts (RowCovers wrap ox cy row k) acc
      ((List.range k).foldl (fun acc c => if spriteBit row c then blitPixel wrap (ox + c) cy acc else acc) acc) := by
  induction k with
  | zero => exact .nothing acc (by simp [RowCovers])
  | succ k ih =>
    rw [List.range_succ, List.foldl_append, List.foldl_cons, List.foldl_nil]
    have hcols := ih (by omega)
    by_cases hbit : spriteBit row k = true
    · rw [if_pos hbit]
      refine (hcols.union (blitPixel_inverts wrap (ox + k) cy _) ?_).congr fun px py => by simp [rowCovers_succ, hbit]
      rintro px py ⟨c, hc, -, hplace⟩ hplace'
      obtain ⟨rfl, -⟩ := offsets_eq_of_place_eq (r := 0) (r' := 0) (by omega) (by omega) (by omega) (by omega) hplace hplace'
      exact absurd hc (Nat.lt_irrefl c)
    · rw [if_neg hbit]
      exact hcols.congr fun px py => by simp [rowCovers_succ, hbit]

theorem blitRow_inverts (wrap : Bool) (ox cy : Nat) (row : Byte) (acc : Display × Bool) :
    Inverts (RowCovers wrap ox cy row 8) acc (blitRow wrap ox cy row acc) :=
  blitColumns_inverts wrap ox cy row acc (by decide)

/-- The rows of a sprite, the first at display row cy, cover a pixel. -/
def RowsCover (wrap : Bool) (ox cy : Nat) (rows : List Byte) (px : Fin 64) (py : Fin 32) : Prop :=
  ∃ r row, rows[r]? = some row ∧ RowCovers wrap ox (cy + r) row 8 px py

theorem rowsCover_cons {wrap : Bool} {ox cy : Nat} {row : Byte} {rows : List Byte} {px : Fin 64} {py : Fin 32} :
    RowsCover wrap ox cy (row :: rows) px py ↔ RowCovers wrap ox cy row 8 px py ∨ RowsCover wrap ox (cy + 1) rows px py := by
  constructor
  · rintro ⟨_ | r, row', hrow, hcover⟩
    · obtain rfl : row = row' := by simpa using hrow
      exact .inl hcover
    · exact .inr ⟨r, row', by simpa using hrow, by rwa [Nat.add_right_comm, Nat.add_assoc]⟩
  · rintro (hcover | ⟨r, row', hrow, hcover⟩)
    · exact ⟨0, row, rfl, hcover⟩
    · exact ⟨r + 1, row', by simpa using hrow, by rwa [Nat.add_right_comm, Nat.add_assoc] at hcover⟩

/-- Row by row: a row of at most 32 lands on pixels that no other row has. -/
theorem blitRows_inverts (wrap : Bool) (ox cy : Nat) {rows : List Byte} (hlen : rows.length ≤ 32) (acc : Display × Bool) :
    Inverts (RowsCover wrap ox cy rows) acc (blitRows wrap ox cy rows acc) := by
  induction rows generalizing cy acc with
  | nil => exact .nothing acc (by simp [RowsCover])
  | cons row rows ih =>
    rw [List.length_cons] at hlen
    have hrest := ih (cy + 1) (by omega) (blitRow wrap ox cy row acc)
    refine ((blitRow_inverts wrap ox cy row acc).union hrest ?_).congr fun px py => rowsCover_cons.symm
    rintro px py ⟨c, hc, -, hplace⟩ ⟨r, row', hrow, c', hc', -, hplace'⟩
    obtain ⟨hr, -⟩ := List.getElem?_eq_some_iff.1 hrow
    rw [Nat.add_assoc] at hplace'
    have hrows := (offsets_eq_of_place_eq (r := 0) (by omega) (by omega) (by omega) (by omega) hplace hplace').2
    omega

/-! ## DRW -/

theorem rowsCover_readBytes (wrap : Bool) (ox oy n : Nat) (m : Memory) (base : Nat) (px : Fin 64) (py : Fin 32) :
    RowsCover wrap ox oy (m.readBytes base n) px py ↔ SpriteCovers wrap ox oy n m base px py := by
  simp only [RowsCover, RowCovers, SpriteCovers, spriteBit, place_iff, List.getElem?_eq_some_iff, Memory.readBytes_length,
    Memory.readBytes_getElem]
  constructor
  · rintro ⟨r, _, ⟨hr, rfl⟩, c, hc, hbit, hplace⟩
    exact ⟨r, c, hr, hc, hbit, hplace⟩
  · rintro ⟨r, c, hr, hc, hbit, hplace⟩
    exact ⟨r, _, ⟨hr, rfl⟩, c, hc, hbit, hplace⟩

theorem drawSprite_inverts (x y n : Nibble) (s : State) : Inverts (DrawCovers x y n s) (s.disp, false) (drawSprite x y n s) :=
  (blitRows_inverts _ _ _ (by rw [Memory.readBytes_length]; omega) _).congr fun px py => rowsCover_readBytes _ _ _ _ _ _ px py

/-- A draw inside memory replaces the display, then writes VF as a result with no flag after it (R192). -/
theorem exec_drw_of_inRange {x y n : Nibble} {s : State} (h : n = 0 ∨ s.i.toNat + n.toNat ≤ 0x1000) :
    exec (.drw x y n) s = .next ((s.setDisp (drawSprite x y n s).1).writeResult flagReg (flagByte (drawSprite x y n s).2)) :=
  if_pos (by rwa [rangeOk_iff])

theorem exec_drw_of_not_inRange {x y n : Nibble} {s : State} (h : ¬(n = 0 ∨ s.i.toNat + n.toNat ≤ 0x1000)) :
    exec (.drw x y n) s = .next (s.takeFault .addressFault (some (encode (.drw x y n)))) :=
  if_neg (by rwa [rangeOk_iff])

/-- A completed draw writes the display, the one register VF, and the PC. -/
theorem State.setDisp_writeResult_unchanged (s : State) (d : Display) (x : Nibble) (b : Byte) :
    Unchanged [x] [.display] s ((s.setDisp d).writeResult x b) :=
  ⟨(State.writeResult_unchanged _ x b []).1, by constructor <;> simp⟩

theorem flagByte_eq_one (f : Bool) : flagByte f = 1 ↔ f = true := by cases f <;> decide

theorem flagByte_eq_zero (f : Bool) : flagByte f = 0 ↔ f = false := by cases f <;> decide

/-- Every draw that completes inverts the covered pixels, and VF is then the flag of the collision. -/
theorem exec_drw_next {x y n : Nibble} {s t : State} (hin : n = 0 ∨ s.i.toNat + n.toNat ≤ 0x1000)
    (hexec : exec (.drw x y n) s = .next t) :
    ∃ collided, Inverts (DrawCovers x y n s) (s.disp, false) (t.disp, collided) ∧ t.readV 0xF = flagByte collided ∧
      t.pc = s.pc + 2 ∧ Unchanged [0xF] [.display] s t := by
  rw [exec_drw_of_inRange hin] at hexec
  cases hexec
  exact ⟨_, drawSprite_inverts x y n s, State.readV_writeResult_same _ _ _, rfl, s.setDisp_writeResult_unchanged _ _ _⟩

theorem not_drawCovers_zero (x y : Nibble) (s : State) (px : Fin 64) (py : Fin 32) : ¬DrawCovers x y 0 s px py := by
  rintro ⟨r, -, hr, -⟩
  exact absurd hr (Nat.not_lt_zero r)

/-- Settles O38: the covered pixels are those the blitter inverts, and VF is its collision flag. -/
theorem drawInvertsTheCoveredPixels : Obligations.DrawInvertsTheCoveredPixels := by
  intro x y n s t hin hexec
  obtain ⟨collided, hinv, hflag, -, -⟩ := exec_drw_next hin hexec
  have hcollided : collided = true ↔ ∃ px py, DrawCovers x y n s px py ∧ s.disp.get px py = true := by
    simpa using hinv.collision
  refine ⟨hinv.covered, hinv.uncovered, ?_, ?_⟩
  · rw [hflag, flagByte_eq_one, hcollided]
  · rw [hflag, flagByte_eq_zero, ← hcollided, Bool.not_eq_true]

/-- Settles O37: with n = 0 no pixel is covered, so nothing is inverted and nothing collides. -/
theorem drawCompletesOrFaults : Obligations.DrawCompletesOrFaults := by
  intro x y n s
  refine ⟨decode_drw x y n, fun hin => ?_, fun hn hout => ?_⟩
  · have hexec := exec_drw_of_inRange (x := x) (y := y) hin
    obtain ⟨collided, -, hflag, hpc, hst⟩ := exec_drw_next hin hexec
    obtain ⟨-, hkept, -, hclear⟩ := drawInvertsTheCoveredPixels x y n s _ hin hexec
    refine ⟨_, hexec, ?_, hpc, hst, ?_⟩
    · rw [hflag, flagByte_eq_zero, flagByte_eq_one]
      exact collided.eq_false_or_eq_true.symm
    · rintro rfl
      exact ⟨hclear.2 fun ⟨px, py, h, _⟩ => not_drawCovers_zero x y s px py h, fun px py => hkept px py (not_drawCovers_zero x y s px py)⟩
  · exact ⟨_, exec_drw_of_not_inRange (by rw [not_or]; exact ⟨hn, by omega⟩), s.takeFault_faulted _ _⟩

/-- The pixels a draw covers depend on its origin, I, memory and the parameters alone (R192, R194). -/
theorem drawCovers_congr {x y n : Nibble} {s t : State} (hx : (t.readV x).toNat % 64 = (s.readV x).toNat % 64)
    (hy : (t.readV y).toNat % 32 = (s.readV y).toNat % 32) (hi : t.i = s.i) (hmem : ∀ a, t.mem.read a = s.mem.read a)
    (hcfg : t.cfg = s.cfg) (px : Fin 64) (py : Fin 32) : DrawCovers x y n t px py ↔ DrawCovers x y n s px py := by
  simp only [DrawCovers, SpriteCovers, hx, hy, hi, hmem, hcfg]

/-- Settles O39: the second draw covers the pixels the first did, inverts them back, and collides with those the first turned on. -/
theorem drawTwiceRestores : Obligations.DrawTwiceRestores := by
  intro x y n s t hin hexec hx hy
  obtain ⟨-, -, -, -, hst⟩ := exec_drw_next hin hexec
  have hi : t.i = s.i := hst.2.index (by decide)
  have hcovers := drawCovers_congr (n := n) hx hy hi (hst.2.memory (by decide)) hst.2.config
  have hin' : n = 0 ∨ t.i.toNat + n.toNat ≤ 0x1000 := by rwa [hi]
  have hexec' := exec_drw_of_inRange (x := x) (y := y) hin'
  obtain ⟨hinverted, hkept, -, -⟩ := drawInvertsTheCoveredPixels x y n s t hin hexec
  obtain ⟨hinverted', hkept', hflag', -⟩ := drawInvertsTheCoveredPixels x y n t _ hin' hexec'
  simp only [hcovers] at hinverted' hkept' hflag'
  refine ⟨_, hexec', fun px py => ?_, hflag'.trans ?_⟩
  · by_cases hcover : DrawCovers x y n s px py
    · rw [hinverted' px py hcover, hinverted px py hcover, Bool.not_not]
    · rw [hkept' px py hcover, hkept px py hcover]
  · refine exists₂_congr fun px py => and_congr_left fun hon => ?_
    by_cases hcover : DrawCovers x y n s px py
    · simpa [hcover, hinverted px py hcover] using hon
    · simpa [hcover, hkept px py hcover] using hon

/-! ## The display-updated output -/

theorem stepResult_of_running {s t : State} (hrun : s.halted = false) (hcycle : cycle s = .next t) (hgoes : t.halted = false) :
    stepResult s = .ok := by
  simp [stepResult, hrun, hcycle, hgoes]

theorem stepResult_of_takeFault {s t : State} {c : FaultCause} {w : Option Word} (hrun : s.halted = false)
    (hcycle : cycle s = .next (t.takeFault c w)) : stepResult s = .fault c := by
  simp [stepResult, hrun, hcycle]

theorem drawsDisplay_iff (i : Instr) : Instr.drawsDisplay i = true ↔ i = .cls ∨ ∃ x y n, i = .drw x y n := by
  cases i <;> simp [Instr.drawsDisplay]

/-- The output is asserted by a running core whose cycle decodes CLS or DRW and reports no fault (R198, R250). -/
theorem dispUpdated_iff (s : State) :
    dispUpdated s = true ↔ s.halted = false ∧ ∃ w, fetch s = some w ∧ Instr.drawsDisplay (decode w) = true ∧ stepResult s = .ok := by
  cases hrun : s.halted with
  | true => simp [dispUpdated, traceOut, hrun]
  | false => cases hfetch : fetch s <;> simp [dispUpdated, traceOut, hrun, hfetch, and_comm]

/-- CLS blanks the display and leaves every register (R191). -/
theorem exec_cls (s : State) : exec .cls s = .next (s.setDisp Display.blank).advance := rfl

/-- CLS writes the display and the PC. -/
theorem State.setDisp_advance_unchanged (s : State) (d : Display) : Unchanged [] [.display] s (s.setDisp d).advance :=
  ⟨fun _ _ => rfl, by constructor <;> simp⟩

/-- No cycle that fetches CLS faults. -/
theorem stepResult_of_cls {s : State} {w : Word} (hrun : s.halted = false) (hfetch : fetch s = some w) (hcls : decode w = .cls) :
    stepResult s = .ok :=
  stepResult_of_running hrun (by rw [cycle_of_fetch hrun hfetch, hcls, exec_cls]) (by simpa using hrun)

/-- A cycle that fetches DRW reports no fault exactly when its range is inside memory. -/
theorem stepResult_of_drw {s : State} {w : Word} {x y n : Nibble} (hrun : s.halted = false) (hfetch : fetch s = some w)
    (hdrw : decode w = .drw x y n) : stepResult s = .ok ↔ n = 0 ∨ s.i.toNat + n.toNat ≤ 0x1000 := by
  have hcycle : cycle s = exec (.drw x y n) s := hdrw ▸ cycle_of_fetch hrun hfetch
  by_cases hin : n = 0 ∨ s.i.toNat + n.toNat ≤ 0x1000
  · rw [exec_drw_of_inRange hin] at hcycle
    exact iff_of_true (stepResult_of_running hrun hcycle hrun) hin
  · rw [exec_drw_of_not_inRange hin] at hcycle
    exact iff_of_false (by simp [stepResult_of_takeFault hrun hcycle]) hin

/-- Settles O40: CLS always completes, and DRW completes exactly inside memory. -/
theorem displayUpdatedByClsAndDrw : Obligations.DisplayUpdatedByClsAndDrw := by
  intro s
  rw [dispUpdated_iff]
  refine and_congr_right fun hrun => exists_congr fun w => and_congr_right fun hfetch => ?_
  rw [drawsDisplay_iff]
  constructor
  · rintro ⟨hcls | ⟨x, y, n, hdrw⟩, hok⟩
    · exact .inl hcls
    · exact .inr ⟨x, y, n, hdrw, (stepResult_of_drw hrun hfetch hdrw).1 hok⟩
  · rintro (hcls | ⟨x, y, n, hdrw, hin⟩)
    · exact ⟨.inl hcls, stepResult_of_cls hrun hfetch hcls⟩
    · exact ⟨.inr ⟨x, y, n, hdrw⟩, (stepResult_of_drw hrun hfetch hdrw).2 hin⟩

/-- Settles O36: the blank display is written, no register is, and the output is asserted as by every fetched CLS. -/
theorem clearScreenBlanksTheDisplay : Obligations.ClearScreenBlanksTheDisplay := by
  refine ⟨decode_cls, fun s => ?_, fun s hrun hfetch => ?_⟩
  · exact ⟨_, exec_cls s, Display.get_blank, rfl, s.setDisp_advance_unchanged _⟩
  · exact (displayUpdatedByClsAndDrw s).2 ⟨hrun, _, hfetch, .inl decode_cls⟩

end Sys2Proof.Machine
end

section
/-! The key skips, the key wait and the timer transfers (44_timers_keys.md). A key skip is decided by the key number (R210) and then goes as
every skip does; the key wait is decided by the lowest pressed key. -/

namespace Sys2Proof.Machine

/-! ## The key number (R210) -/

/-- The low nibble names the key under `low_nibble`, and under `fault` too while the value is in 0..15. -/
theorem keyIndex_eq_some {mode : KeyIndexMode} {v : Byte} {k : Nibble} (hmode : mode = .lowNibble ∨ v.toNat ≤ 15)
    (hk : k.toNat = v.toNat % 16) : keyIndex mode v = some k := by
  have hnibble : v.extractLsb' 0 4 = k := BitVec.eq_of_toNat_eq (by simp [hk])
  cases mode with
  | lowNibble => exact congrArg some hnibble
  | fault =>
    have hv : ¬v.toNat > 15 := Nat.not_lt.2 (hmode.resolve_left nofun)
    exact (if_neg hv).trans (congrArg some hnibble)

theorem keyIndex_fault_of_gt {v : Byte} (hv : v.toNat > 15) : keyIndex .fault v = none := if_pos hv

/-! ## SKP Vx and SKNP Vx -/

theorem exec_skp_of_keyIndex {x k : Nibble} {s : State} (h : keyIndex s.cfg.keyIndexMode (s.readV x) = some k) :
    exec (.skp x) s = .next (s.skipIf (s.readKey k)) := by
  simp [exec, execSkp, h]

theorem exec_sknp_of_keyIndex {x k : Nibble} {s : State} (h : keyIndex s.cfg.keyIndexMode (s.readV x) = some k) :
    exec (.sknp x) s = .next (s.skipIf (!s.readKey k)) := by
  simp [exec, execSknp, h]

theorem exec_skp_of_keyIndex_none {x : Nibble} {s : State} (h : keyIndex s.cfg.keyIndexMode (s.readV x) = none) :
    exec (.skp x) s = .next (s.takeFault .addressFault (some (encode (.skp x)))) := by
  simp [exec, execSkp, h, raise]

theorem exec_sknp_of_keyIndex_none {x : Nibble} {s : State} (h : keyIndex s.cfg.keyIndexMode (s.readV x) = none) :
    exec (.sknp x) s = .next (s.takeFault .addressFault (some (encode (.sknp x)))) := by
  simp [exec, execSknp, h, raise]

/-- Once the key number is known to be k, SKP skips when key k is pressed and SKNP when it is not (R211, R212). -/
theorem keySkips_of_keyIndex {x k : Nibble} {s : State} (h : keyIndex s.cfg.keyIndexMode (s.readV x) = some k) :
    (∃ t, exec (.skp x) s = .next t ∧ t.pc = (if s.readKey k = true then s.pc + 4 else s.pc + 2) ∧ Unchanged [] [] s t) ∧
    (∃ t, exec (.sknp x) s = .next t ∧ t.pc = (if s.readKey k = false then s.pc + 4 else s.pc + 2) ∧ Unchanged [] [] s t) :=
  ⟨⟨_, exec_skp_of_keyIndex h, s.skipIf_of_iff Iff.rfl⟩, ⟨_, exec_sknp_of_keyIndex h, s.skipIf_of_iff (Bool.not_eq_true' _).to_iff⟩⟩

/-- Settles O41: a value in 0..15 is its own low nibble, so both modes take it as the key number. -/
theorem keySkipsSampleTheKey : Obligations.KeySkipsSampleTheKey := by
  intro x k s hk
  have hkey : keyIndex s.cfg.keyIndexMode (s.readV x) = some k := keyIndex_eq_some (.inr (by omega)) (by omega)
  exact ⟨decode_skp x, decode_sknp x, keySkips_of_keyIndex hkey⟩

/-- Settles O42: above 15 the mode decides whether there is a key number. -/
theorem keySkipsAboveFifteen : Obligations.KeySkipsAboveFifteen := by
  intro x k s hv
  refine ⟨fun hmode hk => keySkips_of_keyIndex (keyIndex_eq_some (.inl hmode) hk), fun hmode => ?_⟩
  have hnone : keyIndex s.cfg.keyIndexMode (s.readV x) = none := hmode ▸ keyIndex_fault_of_gt hv
  exact ⟨⟨_, exec_skp_of_keyIndex_none hnone, s.takeFault_faulted _ _⟩,
    ⟨_, exec_sknp_of_keyIndex_none hnone, s.takeFault_faulted _ _⟩⟩

/-! ## LD Vx, K -/

/-- A pressed key with none pressed below it is the one found: any other key found would lie above it or below it. -/
theorem lowestPressed_eq_some {s : State} {k : Nibble} (hk : s.readKey k = true)
    (hbelow : ∀ j : Nibble, j.toNat < k.toNat → s.readKey j = false) : lowestPressed s = some k := by
  cases hfound : lowestPressed s with
  | none => exact absurd hk (by simp [lowestPressed_none.1 hfound k])
  | some j =>
    obtain ⟨hj, hjbelow⟩ := lowestPressed_some hfound
    obtain hlt | heq | hgt := Nat.lt_trichotomy j.toNat k.toNat
    · exact absurd hj (by simp [hbelow j hlt])
    · rw [BitVec.eq_of_toNat_eq heq]
    · exact absurd hk (by simp [hjbelow k hgt])

theorem exec_ldVxK_of_pressed (x : Nibble) {k : Nibble} {s : State} (h : lowestPressed s = some k) :
    exec (.ldVxK x) s = .next (s.writeResult x (k.zeroExtend 8)) := by
  simp [exec, execLdVxK, h, State.writeResult]

theorem exec_ldVxK_of_none (x : Nibble) {s : State} (h : lowestPressed s = none) :
    exec (.ldVxK x) s = .next (s.setPc s.pc) := by
  simp [exec, execLdVxK, h]

/-- Settles O43: the key number, zero-extended, is written as a result with no flag, and the stall writes the PC with itself. -/
theorem keyWaitStoresTheLowestKey : Obligations.KeyWaitStoresTheLowestKey := by
  intro x s
  refine ⟨decode_ldVxK x, fun k hk hbelow => ?_, fun hnone => ?_⟩
  · refine ⟨_, exec_ldVxK_of_pressed x (lowestPressed_eq_some hk hbelow), ?_, rfl, s.writeResult_unchanged x _ []⟩
    rw [State.readV_writeResult_same, BitVec.toNat_setWidth_of_le (by decide)]
  · exact ⟨_, exec_ldVxK_of_none x (lowestPressed_none.2 hnone), rfl, s.setPc_unchanged _⟩

/-! ## The timer transfers -/

/-- LD DT, Vx writes the delay timer and the PC. -/
theorem State.setDt_advance_unchanged (s : State) (b : Byte) : Unchanged [] [.delay] s (s.setDt b).advance :=
  ⟨fun _ _ => rfl, by constructor <;> simp⟩

/-- LD ST, Vx writes the sound timer and the PC. -/
theorem State.setSt_advance_unchanged (s : State) (b : Byte) : Unchanged [] [.sound] s (s.setSt b).advance :=
  ⟨fun _ _ => rfl, by constructor <;> simp⟩

/-- The sound output is on while the sound timer is not 0 (60_exceptions.md R248). -/
theorem soundOn_iff (s : State) : soundOn s = true ↔ s.st ≠ 0 := bne_iff_ne

/-- Settles O44: LD Vx, DT writes a result with no flag, and the other two write one timer each. -/
theorem timerTransfers : Obligations.TimerTransfers := fun x s =>
  ⟨decode_ldVxDt x, decode_ldDtVx x, decode_ldStVx x,
    ⟨_, rfl, s.readV_writeResult_same x s.dt, rfl, s.writeResult_unchanged x s.dt []⟩,
    ⟨_, rfl, rfl, rfl, s.setDt_advance_unchanged _⟩,
    ⟨_, rfl, rfl, soundOn_iff _, rfl, s.setSt_advance_unchanged _⟩⟩

end Sys2Proof.Machine
end

section
/-! The faults of the core (60_exceptions.md): what raises each cause and what its entry leaves, the halt that only a reset ends, and the
timers' ticks. -/

namespace Sys2Proof.Machine

/-! ## What an instruction may raise (R230, R236) -/

/-- Instruction i, executed at s, may raise the cause: the key skips and SYS only under the settings that make them fault (D4, D6). -/
def MayRaise (i : Instr) (s : State) : FaultCause → Prop
  | .decodeError => ∃ w, i = .invalid w
  | .addressFault =>
    (∃ x y n, i = .drw x y n) ∨ (∃ x, i = .ldB x ∨ i = .ldMemVx x ∨ i = .ldVxMem x) ∨
      (s.cfg.keyIndexMode = .fault ∧ ∃ x, i = .skp x ∨ i = .sknp x)
  | .stackOverflow => ∃ nnn, i = .call nnn
  | .stackUnderflow => i = .ret
  | .unimplementedOpcode => s.cfg.sysMode = .fault ∧ ∃ nnn, i = .sys nnn

/-- From s, instruction i has gone to a state whose core runs, or to the entry of a fault that it may raise, with its own word. -/
def RunsOrFaults (i : Instr) (s t : State) : Prop :=
  t.halted = true → ∃ f, t = s.takeFault f (some (encode i)) ∧ MayRaise i s f

theorem RunsOrFaults.runs {i : Instr} {s t : State} (h : t.halted = false) : RunsOrFaults i s t :=
  fun hhalt => absurd hhalt (by simp [h])

theorem RunsOrFaults.raised {i : Instr} {s : State} {f : FaultCause} (h : MayRaise i s f) :
    RunsOrFaults i s (s.takeFault f (some (encode i))) :=
  fun _ => ⟨f, rfl, h⟩

/-- Only `KEY_INDEX_MODE = fault` leaves a value without a key number (D6). -/
theorem keyIndexMode_of_keyIndex_none {mode : KeyIndexMode} {v : Byte} (h : keyIndex mode v = none) : mode = .fault := by
  cases mode with
  | lowNibble => cases h
  | fault => rfl

/-- No instruction halts a running core but by the entry of a fault it may raise. -/
theorem exec_runsOrFaults (i : Instr) {s : State} (hrun : s.halted = false) : OnNext (RunsOrFaults i s) (exec i s) := by
  cases i with
  | ret => exact .exec_ret (fun _ => .raised rfl) fun _ => .runs hrun
  | call nnn => exact .exec_call (fun _ => .raised ⟨nnn, rfl⟩) fun _ => .runs hrun
  | sys nnn => exact .exec_sys (fun hmode => .raised ⟨hmode, nnn, rfl⟩) fun _ => .runs hrun
  | skp x =>
    exact .exec_skp (fun hkey => .raised (.inr (.inr ⟨keyIndexMode_of_keyIndex_none hkey, x, .inl rfl⟩))) fun _ _ => .runs hrun
  | sknp x =>
    exact .exec_sknp (fun hkey => .raised (.inr (.inr ⟨keyIndexMode_of_keyIndex_none hkey, x, .inr rfl⟩))) fun _ _ => .runs hrun
  | drw x y n => exact .exec_drw (fun _ => .runs hrun) fun _ => .raised (.inl ⟨x, y, n, rfl⟩)
  | ldB x => exact .exec_ldB (fun _ => .runs hrun) fun _ => .raised (.inr (.inl ⟨x, .inl rfl⟩))
  | ldMemVx x => exact .exec_ldMemVx (fun _ => .runs hrun) fun _ => .raised (.inr (.inl ⟨x, .inr (.inl rfl)⟩))
  | ldVxMem x =>
    exact .exec_ldVxMem (fun _ => .runs ((s.setVs_halted _ _).trans hrun)) fun _ => .raised (.inr (.inl ⟨x, .inr (.inr rfl)⟩))
  | ldVxK x => exact .exec_ldVxK (fun _ => .runs hrun) fun _ _ => .runs hrun
  | rnd x kk => exact .next (.runs (s.dropRand_halted.trans hrun))
  | invalid w => exact .next (.raised ⟨w, rfl⟩)
  | _ => exact .next (.runs hrun)

/-- Settles O10, cause by cause of the fault that halted the core. -/
theorem onlyTheNamedInstructionsFault : Obligations.OnlyTheNamedInstructionsFault := by
  intro i s t hrun hexec hhalt
  obtain ⟨f, rfl, hraise⟩ := exec_runsOrFaults i hrun t hexec hhalt
  cases f with
  | decodeError => exact .inl ⟨rfl, rfl, hraise⟩
  | addressFault => exact .inr (.inl ⟨rfl, rfl, hraise⟩)
  | stackOverflow => exact .inr (.inr (.inl ⟨rfl, rfl, hraise⟩))
  | stackUnderflow => exact .inr (.inr (.inr (.inl ⟨rfl, rfl, hraise⟩)))
  | unimplementedOpcode => exact .inr (.inr (.inr (.inr ⟨rfl, rfl, hraise⟩)))

/-! ## Faults are precise (R237) -/

/-- A cycle halts a running core only by the entry of a fault, with the word its fetch yields, if any: the word of the decoded
instruction is the word fetched. -/
theorem cycle_takesFault {s : State} (hrun : s.halted = false) :
    OnNext (fun t => t.halted = true → ∃ f, t = s.takeFault f (fetch s)) (cycle s) := by
  refine .cycle (fun hhalt => absurd hhalt (by simp [hrun])) (fun _ hfetch _ => ⟨.addressFault, by rw [hfetch]⟩) ?_
  intro w _ hfetch t hexec hhalt
  obtain ⟨f, ht, -⟩ := exec_runsOrFaults (decode w) hrun t hexec hhalt
  obtain ⟨-, hword, -⟩ := encodeOfDecodeIsIdentity w
  exact ⟨f, by rw [ht, hword, hfetch]⟩

/-- The word a fetch yields stands at the PC (20_memory.md R66). -/
theorem wordAt_of_fetch {s : State} {w : Word} (h : fetch s = some w) : WordAt s.mem s.pc.toNat w := by
  unfold fetch at h
  split at h <;> cases h
  exact fetchIsBigEndian s.mem s.pc.toNat

/-- Code 0 is kept for no fault (R230). -/
theorem FaultCause.code_ne_zero (f : FaultCause) : f.code ≠ 0 := by
  cases f <;> decide

/-- Settles O9: the state is the entry of one fault with the word fetched, if any, which is what the report and the latch show. -/
theorem faultsArePrecise : Obligations.FaultsArePrecise := by
  intro c t hrun hcycle hhalt
  obtain ⟨f, rfl⟩ := cycle_takesFault hrun t hcycle hhalt
  have hfaulted : Faulted f (fetch c) c (c.takeFault f (fetch c)) := c.takeFault_faulted f (fetch c)
  refine ⟨f, stepResult_of_takeFault hrun hcycle, rfl, f.code_ne_zero, fun hfetch => ?_, fun w hfetch => ?_⟩
  · rwa [hfetch] at hfaulted ⊢
  · exact ⟨wordAt_of_fetch hfetch, by rwa [hfetch] at hfaulted ⊢⟩

/-! ## DecodeError and StackOverflow (R231, R233) -/

/-- Settles O22: the meaning of `Invalid` is the entry of its fault, and its word is the raw one. -/
theorem invalidWordRaisesDecodeError : Obligations.InvalidWordRaisesDecodeError := fun _ s =>
  ⟨_, rfl, s.takeFault_faulted _ _⟩

theorem exec_call_of_full {s : State} (nnn : Imm12) (h : s.sp.val = 16) :
    exec (.call nnn) s = .next (s.takeFault .stackOverflow (some (encode (.call nnn)))) := by
  simp [exec, execCall, State.push, h, raise]

/-- Settles O17: a full stack takes no push, and the word latched is the one that encodes the CALL. -/
theorem callOnAFullStackOverflows : Obligations.CallOnAFullStackOverflows := fun nnn s hfull =>
  ⟨_, _, exec_call_of_full nnn hfull, decode_call nnn, s.takeFault_faulted _ _⟩

/-! ## The halt (R238, R239) -/

/-- A halted core performs no cycle (40_control_flow.md R111). -/
theorem cycle_of_halted {s : State} (h : s.halted = true) : cycle s = .next s := if_pos h

theorem cycle_keeps_halt {s : State} (h : s.halted = true) : OnNext (fun t => t.halted = true ∧ t.fault = s.fault) (cycle s) := by
  rw [cycle_of_halted h]
  exact .next ⟨h, rfl⟩

/-- No agent's step but a reset's ends the halt or replaces the fault that is latched. -/
theorem agentStep_keeps_halt (e : HostEvent) {s : State} (h : s.halted = true) :
    OnNext (fun t => (t.halted = true ∧ t.fault = s.fault) ∨ ∃ font rom, e = .reset font rom) (agentStep e s) := by
  cases e with
  | cycle => exact fun t ht => .inl (cycle_keeps_halt h t ht)
  | tick => exact .next (.inl ⟨h, rfl⟩)
  | key k pressed => exact .next (.inl ⟨h, rfl⟩)
  | reset font rom => exact fun _ _ => .inr ⟨font, rom, rfl⟩

/-- Settles O50: the step is an ignored cycle or an agent's step. -/
theorem onlyResetLeavesHalt : Obligations.OnlyResetLeavesHalt := by
  intro s t hhalt hstep
  obtain ⟨-, hcycle⟩ | ⟨e, rest, hs, hagent⟩ := step_cases hstep
  · exact .inl (cycle_keeps_halt hhalt t hcycle)
  · obtain hkept | ⟨font, rom, rfl⟩ := agentStep_keeps_halt e (s := s.setSchedule rest) hhalt t hagent
    · exact .inl hkept
    · exact .inr ⟨font, rom, rest, hs⟩

/-! ## Ticks (R244, R245) -/

/-- One tick takes 1 from a timer, floored at 0. -/
theorem toNat_countDown (b : Byte) : (countDown b).toNat = b.toNat - 1 := by
  unfold countDown
  split <;> bv_omega

theorem Unchanged.refl (regs : List Nibble) (parts : List Part) (s : State) : Unchanged regs parts s s :=
  ⟨fun _ _ => rfl, by constructor <;> simp⟩

/-- A tick writes the two timers, and its step the schedule. -/
theorem State.setSchedule_tick_unchanged (s : State) (es : List HostEvent) :
    Unchanged [] [.delay, .sound, .schedule] s (s.setSchedule es).tick :=
  ⟨fun _ _ => rfl, by constructor <;> simp⟩

/-- Settles O45, by induction on the number of ticks: the first takes 1 from each timer, and the others run from where it leaves. -/
theorem ticksCountDown : Obligations.TicksCountDown := by
  intro n s rest hs
  induction n generalizing s with
  | zero => exact ⟨s, rfl, rfl, rfl, hs, rfl, .refl _ _ s⟩
  | succ n ih =>
    have hstep : step s = .next (s.setSchedule (List.replicate n .tick ++ rest)).tick := step_of_schedule_cons hs
    obtain ⟨t, hrun, hdt, hst, hschedule, hpc, hkept⟩ := ih (s.setSchedule (List.replicate n .tick ++ rest)).tick rfl
    refine ⟨t, (run_succ n hstep).trans hrun, ?_, ?_, hschedule, hpc, (s.setSchedule_tick_unchanged _).trans hkept⟩
    · rw [hdt, State.tick_dt, toNat_countDown, State.setSchedule_dt, Nat.sub_sub, Nat.add_comm]
    · rw [hst, State.tick_st, toNat_countDown, State.setSchedule_st, Nat.sub_sub, Nat.add_comm]

end Sys2Proof.Machine
end

section
/-! Reset, hazards and the end of a run (70_reset_and_hazards.md): what a timer reads back after ticks, and that a state at rest stays so.
Rest is a matter of the PC, the latch, memory's bytes and the launch parameters, so a step that keeps those keeps it. -/

namespace Sys2Proof.Machine

/-! ## A timer read back (R274) -/

/-- Ticks take 1 each from the delay timer, floored at 0 (60_exceptions.md R245). -/
theorem State.toNat_dt_iterate_tick (n : Nat) (s : State) : (State.tick^[n] s).dt.toNat = s.dt.toNat - n := by
  induction n with
  | zero => rfl
  | succ n ih => rw [Function.iterate_succ_apply', State.tick_dt, toNat_countDown, ih, Nat.sub_sub]

/-- Settles O46: the timer takes Vx, the ticks count it down, and the load reads what is left. -/
theorem timerReadsBackAfterTicks : Obligations.TimerReadsBackAfterTicks := by
  intro x y n s t hset
  obtain ⟨-, -, -, -, ⟨t', ht', hwritten, -⟩, -⟩ := timerTransfers x s
  obtain rfl : t' = t := by simpa [hset] using ht'.symm
  obtain ⟨-, -, -, ⟨u, hu, hread, -⟩, -⟩ := timerTransfers y (State.tick^[n] t')
  exact ⟨u, hu, by rw [hread, State.toNat_dt_iterate_tick, hwritten]⟩

/-! ## A cycle at rest changes nothing (R273) -/

/-- 0x1000 | PC packs the nibble of JP with the PC, where a fetch may succeed. -/
theorem selfJumpWord_eq_wordA {pc : Word} (h : pc.toNat ≤ 0xFFE) : 0x1000#16 ||| pc = wordA 0x1 (pc.setWidth 12) := by
  apply BitVec.eq_of_toNat_eq
  have hlow : pc.toNat < 2 ^ 12 := by omega
  rw [wordA_toNat, BitVec.toNat_setWidth, Nat.mod_eq_of_lt hlow]
  exact (Nat.two_pow_add_eq_or_of_lt hlow 1).symm

/-- A running core on a self-jump writes the PC with itself. -/
theorem cycle_of_selfJump {s : State} (hrun : s.halted = false) (h : s.selfJump = true) : cycle s = .next s := by
  obtain ⟨hcheck, hword⟩ : fetchCheck s.cfg.fetchCheck s.pc = true ∧ fetchWord s.mem s.pc.toNat = 0x1000#16 ||| s.pc := by
    simpa [State.selfJump] using h
  have hpc : s.pc.toNat ≤ 0xFFE := pc_le_of_fetchCheck hcheck
  have htarget : (s.pc.setWidth 12).zeroExtend 16 = s.pc := by bv_omega
  calc cycle s
      = exec (decode (0x1000#16 ||| s.pc)) s := cycle_of_fetch hrun (hword ▸ fetch_of_check hcheck)
    _ = exec (.jp (s.pc.setWidth 12)) s := by rw [selfJumpWord_eq_wordA hpc, decode_jp]
    _ = .next (s.setPc ((s.pc.setWidth 12).zeroExtend 16)) := rfl
    _ = .next s := by rw [htarget]; rfl

theorem cycle_of_atRest {s : State} (h : s.atRest = true) : cycle s = .next s := by
  cases hrun : s.halted with
  | true => exact cycle_of_halted hrun
  | false => exact cycle_of_selfJump hrun (by simpa [State.atRest, hrun] using h)

/-! ## A step at rest keeps it -/

/-- From s to t the core has stood still: only what the other agents write may have changed, apart from a reset (20_memory.md R74). -/
def StandsStill (s t : State) : Prop := t.pc = s.pc ∧ Unchanged [] [.delay, .sound, .keypad, .schedule] s t

theorem StandsStill.atRest_eq {s t : State} (h : StandsStill s t) : t.atRest = s.atRest := by
  obtain ⟨hpc, -, hframe⟩ := h
  obtain ⟨-, hhalted⟩ := hframe.latch (by decide)
  have hmem : ∀ a, t.mem.read a = s.mem.read a := hframe.memory (by decide)
  simp only [State.atRest, State.selfJump, fetchWord, hhalted, hmem, hpc, hframe.config]

/-- At rest, every agent but a reset leaves the core as it stands. -/
theorem agentStep_standsStill {s : State} (h : s.atRest = true) (e : HostEvent) (rest : List HostEvent)
    (hreset : ∀ font rom, e ≠ .reset font rom) : OnNext (StandsStill s) (agentStep e (s.setSchedule rest)) := by
  cases e with
  | cycle =>
    show OnNext _ (cycle (s.setSchedule rest))
    rw [cycle_of_atRest (s := s.setSchedule rest) h]
    exact .next ⟨rfl, fun _ _ => rfl, by constructor <;> simp⟩
  | tick => exact .next ⟨rfl, fun _ _ => rfl, by constructor <;> simp⟩
  | key k pressed => exact .next ⟨rfl, fun _ _ => rfl, by constructor <;> simp⟩
  | reset font rom => exact absurd rfl (hreset font rom)

/-- Settles O59: the step is a cycle, which changes nothing, or an agent's step, and a core that stands still is at rest as before. -/
theorem restIsForever : Obligations.RestIsForever := by
  intro s t hrest hstep hreset
  have hstill : StandsStill s t := by
    obtain ⟨-, hcycle⟩ | ⟨e, rest, hs, hagent⟩ := step_cases hstep
    · obtain rfl : s = t := by simpa [cycle_of_atRest hrest] using hcycle
      exact ⟨rfl, .refl _ _ s⟩
    · refine agentStep_standsStill hrest e rest ?_ t hagent
      rintro font rom rfl
      exact hreset font rom rest hs
  exact ⟨hstill.atRest_eq.trans hrest, hstill⟩

end Sys2Proof.Machine
end
